-- ==== Sys2Proof/Word.lean ====
section
/-! DEFINITION. The word types of the block: 32-bit words, 8-bit bytes, the 64-bit quantities held as two words, the 256-entry
byte tables and the 26-word round-key file (00_scope.md R10, R12; 10_state.md R40, R41). -/

namespace Sys2Proof

/-- A 32-bit word: every register, round key, counter half and data word (`W` = 32, 00_scope.md R10). -/
abbrev Word := BitVec 32

/-- A byte: a table entry, a seed byte, a window index, the round-key offset (`OFS_BITS` = 8, 00_scope.md R10). -/
abbrev Byte := BitVec 8

/-- A 64-bit quantity: the counter, the three position operands, a nonce (10_state.md R33, R36). -/
abbrev DWord := BitVec 64

/-- A substitution table: `TBL` = 256 entries of 8 bits, indexed 0 to 255 (10_state.md R41). -/
abbrev Table := Vector Byte 256

/-- The round-key file: `N_RK` = 26 words (10_state.md R40). -/
abbrev KeyFile := Vector Word 26

/-- The `L` = 12 seed bytes of the table generator (41_table_generation.md R120). -/
abbrev Seed := Vector Byte 12

end Sys2Proof
end

