-- ==== Sys2Proof/Syntax.lean ====
section
/-! DEFINITION. The commands of the block, one constructor per row of spec/opcode_table.json (30_encoding.md R84). Every
operand of a command is implicit (30_encoding.md R88), so no constructor has an argument. -/

namespace Sys2Proof

/-- The eight commands a host can have the engine perform (30_encoding.md R84). -/
inductive Instr where
  /-- `NOP`: no operation (45_context_control.md R170). -/
  | nop
  /-- `KEY_EXPAND`: the round-key schedule (42_key_schedule.md R131). -/
  | keyExpand
  /-- `GEN_TABLE 1`: generate Table1 (41_table_generation.md R121). -/
  | genTable1
  /-- `GEN_TABLE 2`: generate Table2 (41_table_generation.md R121). -/
  | genTable2
  /-- `GEN_TABLE 3`: generate Table3 (41_table_generation.md R121). -/
  | genTable3
  /-- `ENC_CTR`: one block at the counter's position (43_stream_transform.md R145). -/
  | encCtr
  /-- `ENC_POS`: one block at a given position (44_packet_transform.md R162). -/
  | encPos
  /-- `RESET_CTR`: rewind the context's position (45_context_control.md R171). -/
  | resetCtr
  deriving DecidableEq, Repr

end Sys2Proof
end

