-- ==== Sys2Proof/WellFormed.lean ====
section
/-! DEFINITION. Well-formedness. A command has no operand of its own, so what can be ill-formed is a command word: its three
fields `OP`, `TSEL` and `RSV` (30_encoding.md R81) meet three checks, one per rule. `Instr.wellFormed` asks them of the fields
the opcode map gives the command; `Decode.lean` reads words by R85's pseudocode, which is written apart from these checks. -/

namespace Sys2Proof

/-- `RSV` = bits 31:10 must be 0 in every legal word (30_encoding.md R83). -/
def rsvOk (rsv : BitVec 22) : Bool := rsv == 0

/-- The opcodes the map assigns are 0x00 to 0x05 (30_encoding.md R84, R86). -/
def opOk (op : BitVec 8) : Bool := op.toNat ≤ 5

/-- `TSEL` is 1, 2 or 3 for `GEN_TABLE` (`OP` = 0x02) and 0 for every other opcode (30_encoding.md R82). -/
def tselOk (op : BitVec 8) (tsel : BitVec 2) : Bool := if op = 0x02 then tsel != 0 else tsel == 0

/-- A command word's three fields are well formed when each check passes (30_encoding.md R82, R83, R86). -/
def fieldsOk (op : BitVec 8) (tsel : BitVec 2) (rsv : BitVec 22) : Bool := rsvOk rsv && opOk op && tselOk op tsel

/-- Column `OP` of the opcode map (30_encoding.md R84). -/
def Instr.op : Instr → BitVec 8
  | .nop => 0x00
  | .keyExpand => 0x01
  | .genTable1 => 0x02
  | .genTable2 => 0x02
  | .genTable3 => 0x02
  | .encCtr => 0x03
  | .encPos => 0x04
  | .resetCtr => 0x05

/-- Column `TSEL` of the opcode map (30_encoding.md R84). -/
def Instr.tsel : Instr → BitVec 2
  | .nop => 0
  | .keyExpand => 0
  | .genTable1 => 1
  | .genTable2 => 2
  | .genTable3 => 3
  | .encCtr => 0
  | .encPos => 0
  | .resetCtr => 0

/-- The command's own fields, with `RSV` = 0, pass the three checks. -/
def Instr.wellFormed (i : Instr) : Bool := fieldsOk i.op i.tsel 0

end Sys2Proof
end

