-- ==== Sys2Proof/Decode.lean ====
section
/-! DEFINITION. Decoding a command word (30_encoding.md R80 to R87) and, after it, the encoder. A command is one 32-bit value
written whole to `CMD` by one host write (R80), so the decoder takes a `Word`; no byte order enters (20_memory.md R59). -/

namespace Sys2Proof

/-- Bits 7:0, `OP` (30_encoding.md R81). -/
def opField (w : Word) : BitVec 8 := w.extractLsb' 0 8

/-- Bits 9:8, `TSEL` (30_encoding.md R81). -/
def tselField (w : Word) : BitVec 2 := w.extractLsb' 8 2

/-- Bits 31:10, `RSV` (30_encoding.md R81). -/
def rsvField (w : Word) : BitVec 22 := w.extractLsb' 10 22

/-- Why a word is `Illegal`: the names of the four cases of 30_encoding.md R86. -/
inductive IllegalWord where
  /-- A bit of `RSV` is set (R83). -/
  | reservedBitsSet
  /-- `GEN_TABLE` with `TSEL` = 0 (R82). -/
  | noTableSelected
  /-- `TSEL` is nonzero with another opcode (R82). -/
  | strayTableSelect
  /-- An opcode in 0x06 to 0xFF (R86). -/
  | unassignedOpcode
  deriving DecidableEq, Repr

/-- `Decode`, a total function from words to a command or `Illegal` (30_encoding.md R85, in R85's order of tests). -/
def decode (w : Word) : Except IllegalWord Instr :=
  if rsvField w ≠ 0 then .error .reservedBitsSet
  else if opField w = 0x02 then
    if tselField w = 0 then .error .noTableSelected
    else if tselField w = 1 then .ok .genTable1
    else if tselField w = 2 then .ok .genTable2
    else .ok .genTable3
  else if tselField w ≠ 0 then .error .strayTableSelect
  else if opField w = 0x00 then .ok .nop
  else if opField w = 0x01 then .ok .keyExpand
  else if opField w = 0x03 then .ok .encCtr
  else if opField w = 0x04 then .ok .encPos
  else if opField w = 0x05 then .ok .resetCtr
  else .error .unassignedOpcode

/-- The words of the opcode map (30_encoding.md R84, column "word"). -/
def encode : Instr → Word
  | .nop => 0x00000000
  | .keyExpand => 0x00000001
  | .genTable1 => 0x00000102
  | .genTable2 => 0x00000202
  | .genTable3 => 0x00000302
  | .encCtr => 0x00000003
  | .encPos => 0x00000004
  | .resetCtr => 0x00000005

/-- The command word in the low `nbits` bits of `w`, the bits above them 0. -/
def tableWord (nbits w : Nat) : Word := BitVec.ofNat 32 (w % 2 ^ nbits)

/-- What the decoder reads from an instruction whose bits are `w`, numbered as spec/opcode_table.json numbers them. A command
is one 32-bit word (30_encoding.md R80): bits beyond 31 do not exist, and a `w` that sets one is no command. -/
def decodeTableWord (nbits w : Nat) : Option Instr :=
  if w % 2 ^ nbits < 2 ^ 32 then
    match decode (tableWord nbits w) with
    | .ok i => some i
    | .error _ => none
  else none

end Sys2Proof
end

