-- ==== Sys2Proof/Config.lean ====
section
/-! DEFINITION. The configuration: the algorithm's constants at this hardware's values (00_scope.md R10), the interface
parameters (00_scope.md R11) and the free values, which have no body. The widths of R10 (`W`, `N_RK`, `TBL`, `L`, `OFS_BITS`)
also stand in the types of `Word.lean`. -/

namespace Sys2Proof

/-- `W`: the word width in bits (R10). -/
abbrev Config.wordBits : Nat := 32
/-- `N_RK`: the number of round keys (R10). -/
abbrev Config.nRk : Nat := 26
/-- `R_CTR`: ARX rounds of one `ENC_CTR` (R10). -/
abbrev Config.rCtr : Nat := 7
/-- `OFS_MOD`: the modulus of the round-key offset (R10). -/
abbrev Config.ofsMod : Nat := 18
/-- `OFS_STEP`: the offset's advance per `ENC_CTR` (R10). -/
abbrev Config.ofsStep : Nat := 7
/-- `R_POS`: ARX rounds of one `ENC_POS` (R10). -/
abbrev Config.rPos : Nat := 26
/-- `EVO_MINOR_LIM`: calls per Table1 recombination (R10). -/
abbrev Config.evoMinorLim : Nat := 2000
/-- `EVO_MAJOR_LIM`: calls per Table2 recombination (R10). -/
abbrev Config.evoMajorLim : Nat := 4000000
/-- `L`: the seed length in bytes (R10). -/
abbrev Config.seedLen : Nat := 12
/-- `TBL`: entries per table (R10). -/
abbrev Config.tblSize : Nat := 256
/-- `ROT_R`: the right rotation of the ARX round (R10). -/
abbrev Config.rotR : Nat := 8
/-- `ROT_L`: the left rotation of the ARX round (R10). -/
abbrev Config.rotL : Nat := 3
/-- `OFS_BITS`: the width of the round-key offset (R10). -/
abbrev Config.ofsBits : Nat := 8

/-- `APERTURE`: bytes of register space, 64 words (R11). -/
abbrev Config.aperture : Nat := 256
/-- `BUS_W`: the host data bus width in bits (R11). -/
abbrev Config.busBits : Nat := 32

/-- `BASE` is OPEN and 256-byte aligned (R11, 92_eei_decisions.md D2): the number of the 256-byte page the platform maps the
aperture at, free (log entry 5). -/
opaque Config.basePage : Nat

/-- `BASE`, the host byte address of the aperture: a multiple of 256 (R11). -/
def Config.base : Nat := Config.aperture * Config.basePage

/-- `ANY_32`: the value of the `n`-th read of `DOUT0`, `DOUT1` or `CTX_DATA` made while a command is in flight
(20_memory.md R56, R58; 93_implementation_defined.md U1). Each such read draws a fresh value (log entry 4). -/
opaque Config.any32 : Nat → Word

/-- The word an ARX round would read as round key `i` for `i ≥ 26`, where the spec has no round key (40_datapath.md R104
requires `first + count <= N_RK`). No reachable state asks for it (10_state.md R43; log entry 8). -/
opaque Config.absentRoundKey : Nat → Word

end Sys2Proof
end

