-- ==== Sys2Proof/Machine/State.lean ====
section
/-! DEFINITION. The state of the block as plain data (10_state.md), the reasons a step can stop, the agents that move and the
accesses a host makes, and the state after hardware reset (10_state.md R45). -/

namespace Sys2Proof.Machine

/-- The width of a host access. The block's bus is 32 bits wide and no wider access exists (20_memory.md R55, R61). -/
inductive AccessWidth where
  /-- An 8-bit access. -/
  | byte
  /-- A 16-bit access. -/
  | half
  /-- A 32-bit access, the only width the block accepts. -/
  | word
  deriving DecidableEq, Repr

/-- Why a step stops with a fault. -/
inductive Fault where
  /-- `BusError(offset, width)`: raised by a host's step whose access is inside the aperture and is not a 32-bit access at an
  offset that is a multiple of 4 (20_memory.md R55; 60_exceptions.md R214). It is a fault of the host's own access: the block's
  state does not change. Safe: the run stops where the block would go on unchanged. -/
  | busError (offset : Nat) (width : AccessWidth)
  deriving DecidableEq, Repr

/-- Why a step is refused. -/
inductive Refusal where
  /-- The command's meaning is not written yet. No arm answers it. Safe: nothing is claimed of such a command. -/
  | notModelled (mnemonic : String)
  /-- Raised by the engine's step when the command word in flight decodes to `Illegal`. "`Decode(eng.cmd)` is never `Illegal`
  here" (60_exceptions.md R207): no reachable state raises it. Safe: the run stops. -/
  | illegalInFlight
  deriving DecidableEq, Repr

/-- The three tables (10_state.md R41). -/
inductive TableId where
  /-- Table1, the active substitution. -/
  | t1
  /-- Table2, recombined into Table1. -/
  | t2
  /-- Table3, recombined into Table2. -/
  | t3
  deriving DecidableEq, Repr

/-- What the block's bus port last gave the host: `ready` and `rdata` of 20_memory.md R71. The model's own field. -/
inductive BusResponse where
  /-- No access was answered since reset. -/
  | idle
  /-- A read was answered with `v`. -/
  | data (v : Word)
  /-- A write was answered, refused or not: a refusal shows in `STATUS` alone (60_exceptions.md R200). -/
  | done
  /-- The access started outside the aperture and did not reach the block (20_memory.md R54; log entries 7, 23). -/
  | notSelected
  deriving DecidableEq, Repr

/-- One thing the host does next. Addresses are host byte addresses (20_memory.md R50). -/
inductive HostOp where
  /-- A read access of `width` at byte address `addr`. -/
  | read (addr : Nat) (width : AccessWidth)
  /-- A write access of `width` at byte address `addr`. -/
  | write (addr : Nat) (width : AccessWidth) (v : Word)
  /-- The poll loop `wait`: read `STATUS`, and again at the host's next step while `BUSY` = 1 (30_encoding.md R91). -/
  | pollBusy
  deriving DecidableEq, Repr

/-- Who moves: the two agents of 10_state.md R22, and the platform's reset input (70_reset_and_hazards.md R230). -/
inductive Agent where
  /-- The engine, whose one step is completion, enabled only while `eng.busy` = 1. -/
  | engine
  /-- The host, one register access a step. -/
  | host
  /-- Hardware reset, with the next `overlapping` host accesses overlapping it and so having no effect. -/
  | reset (overlapping : Nat)
  deriving DecidableEq, Repr

/-- The state. Every field but the last four is state the spec gives the block; INVENTORY.md lists each with its rule. -/
structure State where
  /-- `eng.busy`, read as `STATUS.BUSY` (10_state.md R21, R25). -/
  busy : Bool
  /-- `eng.cmd`, the command word in flight, meaningful only while `busy` (10_state.md R21). -/
  cmd : Word
  /-- `STATUS.ERR` (10_state.md R24, R26). -/
  err : Bool
  /-- `STATUS.ERRCODE` (10_state.md R24, R26). -/
  errCode : BitVec 4
  /-- `v.keys`, read as `STATUS.KEYS_VALID` (10_state.md R27). -/
  keysValid : Bool
  /-- `v.t1`, read as `STATUS.T1_VALID` (10_state.md R27). -/
  t1Valid : Bool
  /-- `v.t2`, read as `STATUS.T2_VALID` (10_state.md R27). -/
  t2Valid : Bool
  /-- `v.t3`, read as `STATUS.T3_VALID` (10_state.md R27). -/
  t3Valid : Bool
  /-- `KEY0`, word A of the master key (10_state.md R29). -/
  key0 : Word
  /-- `KEY1`, word B of the master key (10_state.md R29). -/
  key1 : Word
  /-- `KEY2`, word C of the master key (10_state.md R29). -/
  key2 : Word
  /-- `SEED0`, seed bytes 0 to 3 (10_state.md R30). -/
  seed0 : Word
  /-- `SEED1`, seed bytes 4 to 7 (10_state.md R30). -/
  seed1 : Word
  /-- `SEED2`, seed bytes 8 to 11 (10_state.md R30). -/
  seed2 : Word
  /-- `DIN0` (10_state.md R31). -/
  din0 : Word
  /-- `DIN1` (10_state.md R31). -/
  din1 : Word
  /-- `DOUT0` (10_state.md R32). -/
  dout0 : Word
  /-- `DOUT1` (10_state.md R32). -/
  dout1 : Word
  /-- `PIDX_LO` (10_state.md R33). -/
  pidxLo : Word
  /-- `PIDX_HI` (10_state.md R33). -/
  pidxHi : Word
  /-- `PSIZE_LO` (10_state.md R33). -/
  psizeLo : Word
  /-- `PSIZE_HI` (10_state.md R33). -/
  psizeHi : Word
  /-- `BOFF_LO` (10_state.md R33). -/
  boffLo : Word
  /-- `BOFF_HI` (10_state.md R33). -/
  boffHi : Word
  /-- `CTX_INDEX`, whose bits 31:8 are reserved and read 0, so 8 bits are held (10_state.md R34). -/
  ctxIndex : Byte
  /-- `ctx.CTR_LO` (10_state.md R36). -/
  ctrLo : Word
  /-- `ctx.CTR_HI` (10_state.md R36). -/
  ctrHi : Word
  /-- `ctx.EVO_MINOR` (10_state.md R37). -/
  evoMinor : Word
  /-- `ctx.EVO_MAJOR` (10_state.md R38). -/
  evoMajor : Word
  /-- `ctx.RK_OFFSET` (10_state.md R39). -/
  rkOffset : Byte
  /-- `RK[0..25]` (10_state.md R40). -/
  rk : KeyFile
  /-- `T1` (10_state.md R41). -/
  t1 : Table
  /-- `T2` (10_state.md R41). -/
  t2 : Table
  /-- `T3` (10_state.md R41). -/
  t3 : Table
  /-- The model's own: the host accesses still to be made, in the order they arrive (20_memory.md R63; log entry 2). -/
  host : List HostOp
  /-- The model's own: who moves at the next steps, any interleaving a scheduler may choose (10_state.md R22; log entry 1). -/
  sched : List Agent
  /-- The model's own: what the bus port last answered (log entry 3). -/
  resp : BusResponse
  /-- The model's own: how many `ANY_32` values were drawn (log entry 4). -/
  draws : Nat
  deriving DecidableEq, Repr

/-- The identity table, `T[x] = x` (10_state.md R45). -/
def identityTable : Table := Vector.ofFn fun x => BitVec.ofNat 8 x.val

/-- The state after hardware reset (10_state.md R45, 70_reset_and_hazards.md R230): every register, counter and round key 0, the
tables the identity, no valid bit, no error, no command in flight. The model's own four fields start empty (log entry 14). -/
def State.reset : State where
  busy := false
  cmd := 0
  err := false
  errCode := 0
  keysValid := false
  t1Valid := false
  t2Valid := false
  t3Valid := false
  key0 := 0
  key1 := 0
  key2 := 0
  seed0 := 0
  seed1 := 0
  seed2 := 0
  din0 := 0
  din1 := 0
  dout0 := 0
  dout1 := 0
  pidxLo := 0
  pidxHi := 0
  psizeLo := 0
  psizeHi := 0
  boffLo := 0
  boffHi := 0
  ctxIndex := 0
  ctrLo := 0
  ctrHi := 0
  evoMinor := 0
  evoMajor := 0
  rkOffset := 0
  rk := Vector.replicate 26 0
  t1 := identityTable
  t2 := identityTable
  t3 := identityTable
  host := []
  sched := []
  resp := .idle
  draws := 0

end Sys2Proof.Machine
end

