-- ==== Sys2Proof/Machine/Flags.lean ====
section
/-! DEFINITION. The block has no condition codes (10_state.md R46); its only status bits are the fields of `STATUS`
(10_state.md R24): the error kinds and their codes, the `STATUS` word as a host reads it, and the condition for a cipher
command. -/

namespace Sys2Proof.Machine

/-- The error kinds that `STATUS` records (60_exceptions.md R201). -/
inductive ErrorKind where
  /-- `ILLEGAL_CMD`: a write to `CMD` of an illegal word (60_exceptions.md R205). -/
  | illegalCmd
  /-- `BUSY`: a write to a gated register while a command is in flight (60_exceptions.md R204). -/
  | busy
  /-- `NOT_READY`: `ENC_CTR` or `ENC_POS` with a valid bit 0 (60_exceptions.md R208). -/
  | notReady
  /-- `ILLEGAL_VALUE`: an out-of-range window write (60_exceptions.md R209). -/
  | illegalValue
  /-- `BAD_INDEX`: a window write at a reserved index (60_exceptions.md R209). -/
  | badIndex
  deriving DecidableEq, Repr

/-- The code recorded in `ERRCODE` (60_exceptions.md R201). -/
def ErrorKind.code : ErrorKind → BitVec 4
  | .illegalCmd => 1
  | .busy => 2
  | .notReady => 3
  | .illegalValue => 4
  | .badIndex => 5

/-- One bit as a bit vector. -/
def bit (b : Bool) : BitVec 1 := BitVec.ofBool b

/-- The `STATUS` word: `v.t3 || v.t2 || v.t1 || v.keys || ERRCODE || 0b00 || ERR || BUSY`, zero-extended (20_memory.md R56,
10_state.md R24). -/
def State.statusWord (s : State) : Word :=
  BitVec.setWidth 32
    (bit s.t3Valid ++ bit s.t2Valid ++ bit s.t1Valid ++ bit s.keysValid ++ s.errCode ++ (0 : BitVec 2) ++ bit s.err ++ bit s.busy)

/-- All four valid bits are 1, which `ENC_CTR` and `ENC_POS` need to be accepted (60_exceptions.md R206). -/
def State.allValid (s : State) : Bool := s.keysValid && s.t1Valid && s.t2Valid && s.t3Valid

end Sys2Proof.Machine
end

