-- ==== Sys2Proof/Machine/Datapath.lean ====
section
/-! DEFINITION. The pure functions the commands are built from (40_datapath.md), and the byte lanes they use
(00_scope.md R12): rotations, byte reversal, the ARX round and its inverse, the round sequence, table lookup, `SubWord`,
`Compose`. None reads or writes the state. -/

namespace Sys2Proof.Machine

/-- Byte `k` of a word is bits `8k+7:8k`; byte 0 is the least significant (00_scope.md R12). -/
def byteOf (w : Word) (k : Nat) : Byte := w.extractLsb' (8 * k) 8

/-- The word with bytes `b3 || b2 || b1 || b0`, the first in the most significant place (00_scope.md R13). -/
def wordOf (b3 b2 b1 b0 : Byte) : Word := BitVec.cast (show 8 + 8 + 8 + 8 = 32 from rfl) (b3 ++ b2 ++ b1 ++ b0)

/-- `hi || lo` (00_scope.md R13). -/
def joinWords (hi lo : Word) : DWord := BitVec.cast (show 32 + 32 = 64 from rfl) (hi ++ lo)

/-- Bits 31:0 of a 64-bit quantity. -/
def lowWord (d : DWord) : Word := d.extractLsb' 0 32

/-- Bits 63:32 of a 64-bit quantity. -/
def highWord (d : DWord) : Word := d.extractLsb' 32 32

/-- `ror32(v, n)` (40_datapath.md R100). -/
def ror32 (v : Word) (n : Nat) : Word := (v >>> n) ||| (v <<< (32 - n))

/-- `rol32(v, n)` (40_datapath.md R101). -/
def rol32 (v : Word) (n : Nat) : Word := (v <<< n) ||| (v >>> (32 - n))

/-- `bswap32(v) = v[7:0] || v[15:8] || v[23:16] || v[31:24]` (40_datapath.md R102). -/
def bswap32 (v : Word) : Word := wordOf (byteOf v 0) (byteOf v 1) (byteOf v 2) (byteOf v 3)

/-- `ARX(x, y, k)` (40_datapath.md R103). -/
def arx (x y k : Word) : Word × Word :=
  let x1 := (ror32 x Config.rotR + y) ^^^ k
  (x1, rol32 y Config.rotL ^^^ x1)

/-- `ARXinv(x1, y1, k)`, the inverse round, which no command uses (40_datapath.md R105). -/
def arxInv (x1 y1 k : Word) : Word × Word :=
  let y := ror32 (y1 ^^^ x1) Config.rotL
  (rol32 ((x1 ^^^ k) - y) Config.rotR, y)

/-- `RK[i]` (00_scope.md R14). Past the last round key the word is free (log entry 8). -/
def roundKey (rk : KeyFile) (i : Nat) : Word := if h : i < 26 then rk[i] else Config.absentRoundKey i

/-- `Rounds(x, y, first, count)`: ARX rounds with `RK[first]` to `RK[first + count - 1]` in turn (40_datapath.md R104). -/
def rounds (rk : KeyFile) (x y : Word) (first count : Nat) : Word × Word :=
  (List.range count).foldl (fun p r => arx p.1 p.2 (roundKey rk (first + r))) (x, y)

/-- `T[x]`, for a byte `x` (00_scope.md R14). -/
def lookup (T : Table) (x : Byte) : Byte := T[x.toNat]

/-- `T` with entry `x` replaced by `v`. -/
def putEntry (T : Table) (x v : Byte) : Table := T.set x.toNat v

/-- `SubWord(T, w)`: each byte substituted in its own place (40_datapath.md R106). -/
def subWord (T : Table) (w : Word) : Word :=
  wordOf (lookup T (byteOf w 3)) (lookup T (byteOf w 2)) (lookup T (byteOf w 1)) (lookup T (byteOf w 0))

/-- `Compose(A, B)`, the table `C` with `C[x] = A[B[x]]` (40_datapath.md R107). -/
def compose (A B : Table) : Table := Vector.ofFn fun x => lookup A B[x]

end Sys2Proof.Machine
end

