-- ==== Sys2Proof/Machine/Operands.lean ====
section
/-! DEFINITION. The operands of the commands, every one a fixed register or context field (30_encoding.md R88): the seed bytes,
the 64-bit counter, the position operands and the position's nonce; and the three tables by number. -/

namespace Sys2Proof.Machine

/-- The seed: byte `k` is byte `k mod 4` of `SEED(k div 4)` (10_state.md R30). -/
def State.seed (s : State) : Seed :=
  Vector.ofFn fun k => byteOf (if k.val / 4 = 0 then s.seed0 else if k.val / 4 = 1 then s.seed1 else s.seed2) (k.val % 4)

/-- `ctx.CTR = CTR_HI || CTR_LO` (10_state.md R36). -/
def State.ctr (s : State) : DWord := joinWords s.ctrHi s.ctrLo

/-- `packetIndex = PIDX_HI || PIDX_LO` (10_state.md R33). -/
def State.packetIndex (s : State) : DWord := joinWords s.pidxHi s.pidxLo

/-- `packetSize = PSIZE_HI || PSIZE_LO` (10_state.md R33). -/
def State.packetSize (s : State) : DWord := joinWords s.psizeHi s.psizeLo

/-- `byteOffset = BOFF_HI || BOFF_LO` (10_state.md R33). -/
def State.byteOffset (s : State) : DWord := joinWords s.boffHi s.boffLo

/-- `PosNonce(pi, ps, bo) = (pi * ps + 8 * bo) mod 2^64` (44_packet_transform.md R161). -/
def posNonce (pi ps bo : DWord) : DWord := pi * ps + 8 * bo

/-- Table `t` (10_state.md R41). -/
def State.table (s : State) : TableId → Table
  | .t1 => s.t1
  | .t2 => s.t2
  | .t3 => s.t3

end Sys2Proof.Machine
end

