-- ==== Sys2Proof/Machine/Ops.lean ====
section
/-! DEFINITION. The named operations over the state. `State.raise` is the block's whole error entry: there is no trap
(60_exceptions.md R200, R212), a raised error records its code and changes nothing else (R202, R203); `State.clearError` is
what a host does to recover (R213). Each operation is one record update, so that a field it leaves alone is seen to be so. -/

namespace Sys2Proof.Machine

/-- `raise E(info)`: `Record(E)` sets `ERR` and `ERRCODE` unless an error is recorded already, whose code is kept; `info` is not
recorded (60_exceptions.md R203). -/
def State.raise (s : State) (e : ErrorKind) : State :=
  { s with err := true, errCode := if s.err then s.errCode else e.code }

/-- The recovery from an error: `ERR` and `ERRCODE` back to 0, by a write to `STATUS` with bit 1 set (10_state.md R26). -/
def State.clearError (s : State) : State := { s with err := false, errCode := 0 }

/-- `eng.busy <- 0`, the last thing every command does; `eng.cmd` keeps its value (60_exceptions.md R207; log entry 12). -/
def State.finish (s : State) : State := { s with busy := false }

/-- `eng.cmd <- v; eng.busy <- 1` (60_exceptions.md R206). -/
def State.start (s : State) (v : Word) : State := { s with cmd := v, busy := true }

/-- `Tt <- T; v.tt <- 1` (41_table_generation.md R121; 45_context_control.md R178). -/
def State.setTable (s : State) (t : TableId) (T : Table) : State :=
  { s with
    t1 := if t = .t1 then T else s.t1
    t2 := if t = .t2 then T else s.t2
    t3 := if t = .t3 then T else s.t3
    t1Valid := if t = .t1 then true else s.t1Valid
    t2Valid := if t = .t2 then true else s.t2Valid
    t3Valid := if t = .t3 then true else s.t3Valid }

/-- The round-key file written, which sets `v.keys` (42_key_schedule.md R131; 45_context_control.md R178). -/
def State.setKeys (s : State) (rk : KeyFile) : State := { s with rk := rk, keysValid := true }

/-- The 64-bit counter written, low and high half (43_stream_transform.md R145). -/
def State.setCtr (s : State) (c : DWord) : State := { s with ctrLo := lowWord c, ctrHi := highWord c }

/-- The two output words written (43_stream_transform.md R145, 44_packet_transform.md R162). -/
def State.setDout (s : State) (d0 d1 : Word) : State := { s with dout0 := d0, dout1 := d1 }

/-- The position back to the start: counter, evolution counters and offset 0 (45_context_control.md R171). -/
def State.rewind (s : State) : State := { s with ctrLo := 0, ctrHi := 0, evoMinor := 0, evoMajor := 0, rkOffset := 0 }

/-- The minor counter, incremented modulo 2^32, has reached its limit: Table1 is recombined (43_stream_transform.md R143). -/
def State.minorFires (s : State) : Bool := Config.evoMinorLim ≤ (s.evoMinor + 1).toNat

/-- The minor counter fires and at that same moment the major counter, incremented, has reached its limit: Table2 is recombined
too (43_stream_transform.md R143, R144). -/
def State.majorFires (s : State) : Bool := s.minorFires && decide (Config.evoMajorLim ≤ (s.evoMajor + 1).toNat)

/-- `Evolve()` (43_stream_transform.md R143): both recombinations read the tables of before the step (R144). -/
def State.evolve (s : State) : State :=
  { s with
    evoMinor := if s.minorFires then 0 else s.evoMinor + 1
    evoMajor := if s.majorFires then 0 else s.evoMajor + 1
    t1 := if s.minorFires then compose s.t2 s.t1 else s.t1
    t2 := if s.majorFires then compose s.t3 s.t2 else s.t2 }

/-- `RK_OFFSET <- (RK_OFFSET + OFS_STEP) mod OFS_MOD` (43_stream_transform.md R145). -/
def State.advanceOffset (s : State) : State :=
  { s with rkOffset := BitVec.ofNat 8 ((s.rkOffset.toNat + Config.ofsStep) % Config.ofsMod) }

/-- `Keystream(lo, hi, first, count)` (43_stream_transform.md R142): the halves byte-reversed, the high one the round's first
operand (R140), the rounds, the swap (R141), and both words through Table1. -/
def State.keystream (s : State) (lo hi : Word) (first count : Nat) : Word × Word :=
  let p := rounds s.rk (bswap32 hi) (bswap32 lo) first count
  (subWord s.t1 p.1, subWord s.t1 p.2)

/-- Hardware reset: every piece of the block's state takes its reset value and a command in flight is abandoned
(70_reset_and_hazards.md R230). The next `overlapping` host accesses overlap the reset and have no effect. What has not
happened yet (later accesses, the schedule, later free values) is not the block's and stays (log entry 13). -/
def State.hardwareReset (s : State) (overlapping : Nat) : State :=
  { State.reset with host := s.host.drop overlapping, sched := s.sched, draws := s.draws }

end Sys2Proof.Machine
end

