-- ==== Sys2Proof/Machine/ContextControl.lean ====
section
/-! DEFINITION. The commands that do not encrypt, `NOP` and `RESET_CTR`, and the context window
(45_context_control.md). -/

namespace Sys2Proof.Machine

/-- `NOP` at completion: `eng.busy <- 0` and nothing else (45_context_control.md R170). -/
def execNop (s : State) : Host.Outcome State Fault Refusal := .next s.finish

/-- `RESET_CTR` at completion (45_context_control.md R171). -/
def execResetCtr (s : State) : Host.Outcome State Fault Refusal := .next s.rewind.finish

/-- What a window index names (45_context_control.md R175). -/
inductive CtxSlot where
  /-- Index 0x00, `ctx.CTR_LO`. -/
  | ctrLo
  /-- Index 0x01, `ctx.CTR_HI`. -/
  | ctrHi
  /-- Index 0x02, `ctx.EVO_MINOR`. -/
  | evoMinor
  /-- Index 0x03, `ctx.EVO_MAJOR`. -/
  | evoMajor
  /-- Index 0x04, `ctx.RK_OFFSET`. -/
  | rkOffset
  /-- Index 0x10 + i, `RK[i]`. -/
  | roundKey (i : Fin 26)
  /-- Index 0x40 + w, 0x80 + w or 0xC0 + w: word `w` of a table. -/
  | tableWord (t : TableId) (w : Fin 64)
  /-- Indices 0x05 to 0x0F and 0x2A to 0x3F. -/
  | reserved
  deriving DecidableEq, Repr

/-- The window's index map (45_context_control.md R175); for a table index `i`, `t = 1 + (i - 0x40) div 64` and
`w = (i - 0x40) mod 64` (R176). -/
def ctxSlot (i : Byte) : CtxSlot :=
  let n := i.toNat
  if n = 0x00 then .ctrLo
  else if n = 0x01 then .ctrHi
  else if n = 0x02 then .evoMinor
  else if n = 0x03 then .evoMajor
  else if n = 0x04 then .rkOffset
  else if h : 0x10 ≤ n ∧ n ≤ 0x29 then .roundKey ⟨n - 0x10, by omega⟩
  else if 0x40 ≤ n then
    let w : Fin 64 := ⟨(n - 0x40) % 64, Nat.mod_lt _ (by decide)⟩
    if (n - 0x40) / 64 = 0 then .tableWord .t1 w
    else if (n - 0x40) / 64 = 1 then .tableWord .t2 w
    else .tableWord .t3 w
  else .reserved

/-- Window word `w` of a table: `T[4w+3] || T[4w+2] || T[4w+1] || T[4w]` (45_context_control.md R175). -/
def tableWordAt (T : Table) (w : Fin 64) : Word :=
  wordOf T[4 * w.val + 3] T[4 * w.val + 2] T[4 * w.val + 1] T[4 * w.val]

/-- `T[4w+k] <- v[8k+7:8k]` for k in 0..3 (45_context_control.md R178). -/
def putTableWord (T : Table) (w : Fin 64) (v : Word) : Table :=
  (((T.set (4 * w.val) (byteOf v 0)).set (4 * w.val + 1) (byteOf v 1)).set (4 * w.val + 2) (byteOf v 2)).set (4 * w.val + 3) (byteOf v 3)

/-- `CtxRead(i)`: a reserved index reads 0 with no error (45_context_control.md R176). -/
def State.ctxRead (s : State) (i : Byte) : Word :=
  match ctxSlot i with
  | .ctrLo => s.ctrLo
  | .ctrHi => s.ctrHi
  | .evoMinor => s.evoMinor
  | .evoMajor => s.evoMajor
  | .rkOffset => BitVec.setWidth 32 s.rkOffset
  | .roundKey k => s.rk[k]
  | .tableWord t w => tableWordAt (s.table t) w
  | .reserved => 0

/-- `Store(i, v)` (45_context_control.md R178). `CtxWrite` lets no reserved index come this far. -/
def State.ctxStore (s : State) (i : Byte) (v : Word) : State :=
  match ctxSlot i with
  | .ctrLo => { s with ctrLo := v }
  | .ctrHi => { s with ctrHi := v }
  | .evoMinor => { s with evoMinor := v }
  | .evoMajor => { s with evoMajor := v }
  | .rkOffset => { s with rkOffset := byteOf v 0 }
  | .roundKey k => s.setKeys (s.rk.set k v)
  | .tableWord t w => s.setTable t (putTableWord (s.table t) w v)
  | .reserved => s

/-- The write checks of `CtxWrite`: the error a write of `v` at index `i` raises, if any. The whole 32-bit value is compared
(45_context_control.md R177; 60_exceptions.md R209). -/
def ctxWriteError (i : Byte) (v : Word) : Option ErrorKind :=
  match ctxSlot i with
  | .reserved => some .badIndex
  | .evoMinor => if Config.evoMinorLim ≤ v.toNat then some .illegalValue else none
  | .rkOffset => if Config.ofsMod ≤ v.toNat then some .illegalValue else none
  | .ctrLo => none
  | .ctrHi => none
  | .evoMajor => none
  | .roundKey _ => none
  | .tableWord _ _ => none

/-- `CtxWrite(i, v)`: the checks, then the store (45_context_control.md R177). -/
def State.ctxWrite (s : State) (i : Byte) (v : Word) : State :=
  match ctxWriteError i v with
  | some e => s.raise e
  | none => s.ctxStore i v

end Sys2Proof.Machine
end

