-- ==== Sys2Proof/Machine/Aperture.lean ====
section
/-! DEFINITION. The register aperture (20_memory.md): the register map, a host read, a host write, the acceptance of a command
(60_exceptions.md R206) and the bus rules of an access (20_memory.md R54, R55). -/

namespace Sys2Proof.Machine

/-- The registers of the aperture (20_memory.md R52). -/
inductive Reg where
  /-- Offset 0x00, read-only (10_state.md R23). -/
  | id
  /-- Offset 0x04, read-only but for bit 1, write one to clear (10_state.md R24). -/
  | status
  /-- Offset 0x08, write-only (10_state.md R28). -/
  | cmd
  /-- Offset 0x10 (10_state.md R29). -/
  | key0
  /-- Offset 0x14 (10_state.md R29). -/
  | key1
  /-- Offset 0x18 (10_state.md R29). -/
  | key2
  /-- Offset 0x20 (10_state.md R30). -/
  | seed0
  /-- Offset 0x24 (10_state.md R30). -/
  | seed1
  /-- Offset 0x28 (10_state.md R30). -/
  | seed2
  /-- Offset 0x30 (10_state.md R31). -/
  | din0
  /-- Offset 0x34 (10_state.md R31). -/
  | din1
  /-- Offset 0x38, read-only (10_state.md R32). -/
  | dout0
  /-- Offset 0x3C, read-only (10_state.md R32). -/
  | dout1
  /-- Offset 0x40 (10_state.md R33). -/
  | pidxLo
  /-- Offset 0x44 (10_state.md R33). -/
  | pidxHi
  /-- Offset 0x48 (10_state.md R33). -/
  | psizeLo
  /-- Offset 0x4C (10_state.md R33). -/
  | psizeHi
  /-- Offset 0x50 (10_state.md R33). -/
  | boffLo
  /-- Offset 0x54 (10_state.md R33). -/
  | boffHi
  /-- Offset 0x60 (10_state.md R34). -/
  | ctxIndex
  /-- Offset 0x64 (10_state.md R35). -/
  | ctxData
  deriving DecidableEq, Repr

/-- A register's offset (20_memory.md R52). -/
def Reg.offset : Reg → Nat
  | .id => 0x00
  | .status => 0x04
  | .cmd => 0x08
  | .key0 => 0x10
  | .key1 => 0x14
  | .key2 => 0x18
  | .seed0 => 0x20
  | .seed1 => 0x24
  | .seed2 => 0x28
  | .din0 => 0x30
  | .din1 => 0x34
  | .dout0 => 0x38
  | .dout1 => 0x3C
  | .pidxLo => 0x40
  | .pidxHi => 0x44
  | .psizeLo => 0x48
  | .psizeHi => 0x4C
  | .boffLo => 0x50
  | .boffHi => 0x54
  | .ctxIndex => 0x60
  | .ctxData => 0x64

/-- The register at a word offset of the aperture; `none` for a reserved offset (20_memory.md R52). -/
def regAt (off : Nat) : Option Reg :=
  match off with
  | 0x00 => some .id
  | 0x04 => some .status
  | 0x08 => some .cmd
  | 0x10 => some .key0
  | 0x14 => some .key1
  | 0x18 => some .key2
  | 0x20 => some .seed0
  | 0x24 => some .seed1
  | 0x28 => some .seed2
  | 0x30 => some .din0
  | 0x34 => some .din1
  | 0x38 => some .dout0
  | 0x3C => some .dout1
  | 0x40 => some .pidxLo
  | 0x44 => some .pidxHi
  | 0x48 => some .psizeLo
  | 0x4C => some .psizeHi
  | 0x50 => some .boffLo
  | 0x54 => some .boffHi
  | 0x60 => some .ctxIndex
  | 0x64 => some .ctxData
  | _ => none

/-- The gated registers: the writable ones but `STATUS`, whose writes are refused while a command is in flight (20_memory.md R52,
R57). -/
def Reg.gated : Reg → Bool
  | .id => false
  | .status => false
  | .dout0 => false
  | .dout1 => false
  | .cmd => true
  | .key0 => true
  | .key1 => true
  | .key2 => true
  | .seed0 => true
  | .seed1 => true
  | .seed2 => true
  | .din0 => true
  | .din1 => true
  | .pidxLo => true
  | .pidxHi => true
  | .psizeLo => true
  | .psizeHi => true
  | .boffLo => true
  | .boffHi => true
  | .ctxIndex => true
  | .ctxData => true

/-- The registers whose value is unspecified while a command is in flight: `DOUT0`, `DOUT1` and `CTX_DATA` (20_memory.md R58). -/
def Reg.openWhileBusy : Reg → Bool
  | .dout0 => true
  | .dout1 => true
  | .ctxData => true
  | .id => false
  | .status => false
  | .cmd => false
  | .key0 => false
  | .key1 => false
  | .key2 => false
  | .seed0 => false
  | .seed1 => false
  | .seed2 => false
  | .din0 => false
  | .din1 => false
  | .pidxLo => false
  | .pidxHi => false
  | .psizeLo => false
  | .psizeHi => false
  | .boffLo => false
  | .boffHi => false
  | .ctxIndex => false

/-- What register `r` holds, as a read returns it when the value is specified (20_memory.md R56). -/
def State.regValue (s : State) : Reg → Word
  | .id => 0x53504B52
  | .status => s.statusWord
  | .cmd => 0
  | .key0 => s.key0
  | .key1 => s.key1
  | .key2 => s.key2
  | .seed0 => s.seed0
  | .seed1 => s.seed1
  | .seed2 => s.seed2
  | .din0 => s.din0
  | .din1 => s.din1
  | .dout0 => s.dout0
  | .dout1 => s.dout1
  | .pidxLo => s.pidxLo
  | .pidxHi => s.pidxHi
  | .psizeLo => s.psizeLo
  | .psizeHi => s.psizeHi
  | .boffLo => s.boffLo
  | .boffHi => s.boffHi
  | .ctxIndex => BitVec.setWidth 32 s.ctxIndex
  | .ctxData => s.ctxRead s.ctxIndex

/-- A read at `off` draws `ANY_32` (20_memory.md R58). -/
def State.readIsOpen (s : State) (off : Nat) : Bool :=
  match regAt off with
  | some r => s.busy && r.openWhileBusy
  | none => false

/-- The word `MemRead(BASE + off, 4)` returns (20_memory.md R56); a reserved offset reads 0 (R53). -/
def State.readWord (s : State) (off : Nat) : Word :=
  match regAt off with
  | some r => if s.busy && r.openWhileBusy then Config.any32 s.draws else s.regValue r
  | none => 0

/-- A host read: the port answers the word and nothing of the block changes (20_memory.md R56). -/
def State.hostRead (s : State) (off : Nat) : State :=
  { s with resp := .data (s.readWord off), draws := if s.readIsOpen off then s.draws + 1 else s.draws }

/-- `ENC_CTR` and `ENC_POS`, the commands that need every valid bit (60_exceptions.md R206). -/
def isCipher : Instr → Bool
  | .encCtr => true
  | .encPos => true
  | .nop => false
  | .keyExpand => false
  | .genTable1 => false
  | .genTable2 => false
  | .genTable3 => false
  | .resetCtr => false

/-- `Accept(v)`: decode, then the valid bits of a cipher command, then the command is in flight (60_exceptions.md R206, R211). -/
def State.accept (s : State) (v : Word) : State :=
  match decode v with
  | .error _ => s.raise .illegalCmd
  | .ok i => if isCipher i && !s.allValid then s.raise .notReady else s.start v

/-- What a write that passed the busy check stores in register `r` (20_memory.md R57). `STATUS` takes bit 1 as a clear
(10_state.md R26); the read-only registers ignore the write (20_memory.md R53). -/
def State.storeReg (s : State) (r : Reg) (v : Word) : State :=
  match r with
  | .id => s
  | .status => if v.getLsbD 1 then s.clearError else s
  | .cmd => s.accept v
  | .key0 => { s with key0 := v }
  | .key1 => { s with key1 := v }
  | .key2 => { s with key2 := v }
  | .seed0 => { s with seed0 := v }
  | .seed1 => { s with seed1 := v }
  | .seed2 => { s with seed2 := v }
  | .din0 => { s with din0 := v }
  | .din1 => { s with din1 := v }
  | .dout0 => s
  | .dout1 => s
  | .pidxLo => { s with pidxLo := v }
  | .pidxHi => { s with pidxHi := v }
  | .psizeLo => { s with psizeLo := v }
  | .psizeHi => { s with psizeHi := v }
  | .boffLo => { s with boffLo := v }
  | .boffHi => { s with boffHi := v }
  | .ctxIndex => { s with ctxIndex := byteOf v 0 }
  | .ctxData => s.ctxWrite s.ctxIndex v

/-- The effect of `MemWrite(BASE + off, 4, v)` on the block: a gated register refuses it with `BUSY` while a command is in flight;
a reserved offset ignores it (20_memory.md R53, R57; 60_exceptions.md R204). -/
def State.writeWord (s : State) (off : Nat) (v : Word) : State :=
  match regAt off with
  | some r => if r.gated && s.busy then s.raise .busy else s.storeReg r v
  | none => s

/-- A host write: its effect, and the port answers it. A refused write is answered too: the refusal shows in `STATUS` alone
(60_exceptions.md R200). -/
def State.hostWrite (s : State) (off : Nat) (v : Word) : State := { s.writeWord off v with resp := .done }

/-- A host access of `width` at byte address `addr`, which does `act` at its offset if the block takes it. Outside
`[BASE, BASE + 256)` it does not reach the block (20_memory.md R54; log entry 7). Inside, anything but a 32-bit access at a
multiple of 4 is a bus error (20_memory.md R55; log entry 6). DESIGN CHOICE, unsafe: the start address alone decides, so an
access that starts below `BASE` and overlaps the aperture counts as outside (R54) and not as a bus error (R55); the spec does not
say which it is (log entry 23). -/
def State.busAccess (s : State) (addr : Nat) (width : AccessWidth) (act : Nat → State) : Host.Outcome State Fault Refusal :=
  if Config.base ≤ addr ∧ addr < Config.base + Config.aperture then
    let off := addr - Config.base
    if width = .word ∧ off % 4 = 0 then .next (act off) else .fault (.busError off width)
  else .next { s with resp := .notSelected }

end Sys2Proof.Machine
end

