-- ==== Sys2Proof/Machine/Agents.lean ====
section
/-! DEFINITION. The two agents and the reset input (10_state.md R22, 20_memory.md R63): whose turn the next step is, what a turn
uses up, the host's turn, and the command in flight as the engine reads it. -/

namespace Sys2Proof.Machine

/-- Whose turn is next: the schedule's first entry. The schedule is any finite interleaving; past its end the engine completes
what is in flight, then the host makes its next access, then nothing is left to do (log entry 1). -/
def State.turn (s : State) : Option Agent :=
  match s.sched with
  | a :: _ => some a
  | [] => if s.busy then some .engine else if s.host.isEmpty then none else some .host

/-- A turn uses up its entry of the schedule. -/
def State.endTurn (s : State) : State := { s with sched := s.sched.tail }

/-- The schedule with the engine's turn first, unless the engine's turn is next already. -/
def State.giveEngineTurn (s : State) : State :=
  { s with sched := if s.turn = some .engine then s.sched else .engine :: s.sched }

/-- The command in flight: what `eng.cmd` decodes to (60_exceptions.md R207). -/
def State.inFlight (s : State) : Except IllegalWord Instr := decode s.cmd

/-- The host's next access leaves its queue. -/
def State.endAccess (s : State) : State := { s with host := s.host.tail }

/-- One host access (20_memory.md R56, R57). A poll reads `STATUS` and is made again at the host's next turn while `BUSY` = 1
(30_encoding.md R91). -/
def State.hostMove (s : State) (op : HostOp) : Host.Outcome State Fault Refusal :=
  match op with
  | .read addr width => s.endAccess.busAccess addr width fun off => s.endAccess.hostRead off
  | .write addr width v => s.endAccess.busAccess addr width fun off => s.endAccess.hostWrite off v
  | .pollBusy => .next (if s.busy then s.hostRead 0x04 else s.endAccess.hostRead 0x04)

/-- The host's turn: its next access, if it has one (10_state.md R22). -/
def hostTurn (s : State) : Host.Outcome State Fault Refusal :=
  match s.host with
  | [] => .next s
  | op :: _ => s.hostMove op

end Sys2Proof.Machine
end

