-- ==== Sys2Proof/Machine/KeySchedule.lean ====
section
/-! DEFINITION. The round-key schedule and `KEY_EXPAND` (42_key_schedule.md). -/

namespace Sys2Proof.Machine

/-- The running values `(A, B, C)` of `KeyExpand` before step `i`: even steps advance the pair `(B, A)`, odd steps `(C, A)`, with
the step's index XORed in (42_key_schedule.md R130). -/
def keyState (A B C : Word) : Nat → Word × Word × Word
  | 0 => (A, B, C)
  | i + 1 =>
    let q := keyState A B C i
    if i % 2 = 0 then
      let p := arx q.2.1 q.1 (BitVec.ofNat 32 i)
      (p.2, p.1, q.2.2)
    else
      let p := arx q.2.2 q.1 (BitVec.ofNat 32 i)
      (p.2, q.2.1, p.1)

/-- `KeyExpand(A, B, C)`: round key `i` is the value of `A` before step `i` (42_key_schedule.md R130). -/
def keyExpand (A B C : Word) : KeyFile := Vector.ofFn fun i => (keyState A B C i.val).1

/-- `KEY_EXPAND` at completion (42_key_schedule.md R131). -/
def execKeyExpand (s : State) : Host.Outcome State Fault Refusal :=
  .next (s.setKeys (keyExpand s.key0 s.key1 s.key2)).finish

end Sys2Proof.Machine
end

