-- ==== Sys2Proof/Machine/PacketTransform.lean ====
section
/-! DEFINITION. `ENC_POS`, the position-addressed transform (44_packet_transform.md). -/

namespace Sys2Proof.Machine

/-- The nonce of one `ENC_POS`, from the position registers (44_packet_transform.md R161, R162). -/
def State.positionNonce (s : State) : DWord := posNonce s.packetIndex s.packetSize s.byteOffset

/-- The keystream of one `ENC_POS`: the position's nonce, `R_POS` rounds from `RK[0]` (44_packet_transform.md R162). -/
def State.posKeystream (s : State) : Word × Word := s.keystream (lowWord s.positionNonce) (highWord s.positionNonce) 0 Config.rPos

/-- `ENC_POS` at completion: the output, then `Evolve()`; the counter and the offset are neither read nor written
(44_packet_transform.md R162). -/
def execEncPos (s : State) : Host.Outcome State Fault Refusal :=
  let k := s.posKeystream
  .next ((s.setDout (s.din0 ^^^ k.1) (s.din1 ^^^ k.2)).evolve).finish

end Sys2Proof.Machine
end

