-- ==== Sys2Proof/Machine/StreamTransform.lean ====
section
/-! DEFINITION. `ENC_CTR`, the counter-mode transform (43_stream_transform.md). -/

namespace Sys2Proof.Machine

/-- The keystream of one `ENC_CTR`: the counter as nonce, `R_CTR` rounds at the round-key window (43_stream_transform.md R145). -/
def State.ctrKeystream (s : State) : Word × Word := s.keystream s.ctrLo s.ctrHi s.rkOffset.toNat Config.rCtr

/-- `ENC_CTR` at completion. The output comes from the state before the call; then, in order, the counter, `Evolve()` and the
offset (43_stream_transform.md R145). -/
def execEncCtr (s : State) : Host.Outcome State Fault Refusal :=
  let k := s.ctrKeystream
  .next ((((s.setDout (s.din0 ^^^ k.1) (s.din1 ^^^ k.2)).setCtr (s.ctr + 1)).evolve).advanceOffset).finish

end Sys2Proof.Machine
end

