-- ==== Sys2Proof/Machine/TableGeneration.lean ====
section
/-! DEFINITION. The keyed permutation generator and the three `GEN_TABLE` commands (41_table_generation.md). -/

namespace Sys2Proof.Machine

/-- One step of `PermGen`: with `k = seed[i mod 12]`, `j` gains `T[(i + k) mod 256] + k`, then entries `i` and `j` are swapped.
The read sees the table before the swap (41_table_generation.md R120). -/
def permGenStep (seed : Seed) (p : Table × Byte) (n : Nat) : Table × Byte :=
  let i := BitVec.ofNat 8 n
  let k := seed[n % 12]'(Nat.mod_lt n (by decide))
  let j := p.2 + lookup p.1 (i + k) + k
  (putEntry (putEntry p.1 i (lookup p.1 j)) j (lookup p.1 i), j)

/-- The table and the accumulator after the first `n` steps, from the identity and `j = 0` (41_table_generation.md R120). -/
def permGenSteps (seed : Seed) (n : Nat) : Table × Byte := (List.range n).foldl (permGenStep seed) (identityTable, 0)

/-- `PermGen(seed)`: 256 steps, one pass (41_table_generation.md R120, R123). -/
def permGen (seed : Seed) : Table := (permGenSteps seed Config.tblSize).1

/-- `GEN_TABLE t` at completion: table `t` replaced whole, its valid bit set, `BUSY` cleared (41_table_generation.md R121). -/
def State.generate (s : State) (t : TableId) : State := (s.setTable t (permGen s.seed)).finish

/-- `GEN_TABLE 1` (41_table_generation.md R121). -/
def execGenTable1 (s : State) : Host.Outcome State Fault Refusal := .next (s.generate .t1)

/-- `GEN_TABLE 2` (41_table_generation.md R121). -/
def execGenTable2 (s : State) : Host.Outcome State Fault Refusal := .next (s.generate .t2)

/-- `GEN_TABLE 3` (41_table_generation.md R121). -/
def execGenTable3 (s : State) : Host.Outcome State Fault Refusal := .next (s.generate .t3)

end Sys2Proof.Machine
end

