-- ==== Sys2Proof/Machine/Dispatch.lean ====
section
/-! DEFINITION. The engine's dispatch over the commands: what completing each one does (60_exceptions.md R207). One arm per
constructor of `Instr`. -/

namespace Sys2Proof.Machine

-- `Complete()`, the case over the decoded command (60_exceptions.md R207).
def exec (i : Instr) (s : State) : Host.Outcome State Fault Refusal :=
  match i with
  | .nop => Sys2Proof.Machine.execNop s
  | .keyExpand => Sys2Proof.Machine.execKeyExpand s
  | .genTable1 => Sys2Proof.Machine.execGenTable1 s
  | .genTable2 => Sys2Proof.Machine.execGenTable2 s
  | .genTable3 => Sys2Proof.Machine.execGenTable3 s
  | .encCtr => Sys2Proof.Machine.execEncCtr s
  | .encPos => Sys2Proof.Machine.execEncPos s
  | .resetCtr => Sys2Proof.Machine.execResetCtr s

end Sys2Proof.Machine
end

