-- ==== Sys2Proof/Machine/Engine.lean ====
section
/-! DEFINITION. The engine's turn: completing the command in flight (60_exceptions.md R207). -/

namespace Sys2Proof.Machine

/-- The engine's step: `Complete()`, on the decoded command in flight (60_exceptions.md R207). -/
def complete (s : State) : Host.Outcome State Fault Refusal :=
  match State.inFlight s with
  | .ok i => exec i s
  | .error _ => .refused .illegalInFlight

/-- The engine's turn: it is enabled exactly while `eng.busy` = 1 (60_exceptions.md R207) and otherwise does nothing. -/
def engineTurn (s : State) : Host.Outcome State Fault Refusal := if s.busy then complete s else .next s

end Sys2Proof.Machine
end

