-- ==== Sys2Proof/Machine/HostProgram.lean ====
section
/-! DEFINITION. The host-program notation of 30_encoding.md R89 to R91, as the accesses it stands for, and the host's fixed
sequences: context creation (70_reset_and_hazards.md R236), export and import (45_context_control.md R181). `goto`, `if`,
labels and the names that hold read values belong to the host (R91; log entry 2); `wait` is the one loop a host access sequence
needs, and `HostOp.pollBusy` is that loop. -/

namespace Sys2Proof.Machine

/-- The statements of a host program (30_encoding.md R89 to R91). -/
inductive HostStmt where
  /-- `wr REG, v` (R89). -/
  | wr (r : Reg) (v : Word)
  /-- `rd REG -> name`; the value read is the port's answer (R89). -/
  | rd (r : Reg)
  /-- A command mnemonic, alone as a statement (R90). -/
  | command (i : Instr)
  /-- `wait` (R91). -/
  | wait
  /-- `clrerr` (R91). -/
  | clrerr
  /-- `loadkey a, b, c` (R91). -/
  | loadkey (a b c : Word)
  /-- `loadseed s0, s1, s2` (R91). -/
  | loadseed (s0 s1 s2 : Word)
  /-- `block d0, d1` (R91). -/
  | block (d0 d1 : Word)
  /-- `pos pi, ps, bo` (R91). -/
  | pos (pi ps bo : DWord)
  /-- `ctxwr i, v` (R91). -/
  | ctxwr (i : Byte) (v : Word)
  /-- `ctxrd i -> name` (R91). -/
  | ctxrd (i : Byte)
  /-- `result -> a, b` (R91). -/
  | result
  deriving DecidableEq, Repr

/-- `MemWrite(BASE + off(REG), 4, v)` (30_encoding.md R89, 00_scope.md R15). -/
def wrOp (r : Reg) (v : Word) : HostOp := .write (Config.base + r.offset) .word v

/-- `MemRead(BASE + off(REG), 4)` (30_encoding.md R89, 00_scope.md R15). -/
def rdOp (r : Reg) : HostOp := .read (Config.base + r.offset) .word

/-- The accesses a statement stands for (30_encoding.md R89 to R91). -/
def HostStmt.expand : HostStmt → List HostOp
  | .wr r v => [wrOp r v]
  | .rd r => [rdOp r]
  | .command i => [wrOp .cmd (encode i)]
  | .wait => [.pollBusy]
  | .clrerr => [wrOp .status 0x00000002]
  | .loadkey a b c => [wrOp .key0 a, wrOp .key1 b, wrOp .key2 c]
  | .loadseed s0 s1 s2 => [wrOp .seed0 s0, wrOp .seed1 s1, wrOp .seed2 s2]
  | .block d0 d1 => [wrOp .din0 d0, wrOp .din1 d1]
  | .pos pi ps bo =>
    [wrOp .pidxLo (lowWord pi), wrOp .pidxHi (highWord pi), wrOp .psizeLo (lowWord ps), wrOp .psizeHi (highWord ps),
      wrOp .boffLo (lowWord bo), wrOp .boffHi (highWord bo)]
  | .ctxwr i v => [wrOp .ctxIndex (BitVec.setWidth 32 i), wrOp .ctxData v]
  | .ctxrd i => [wrOp .ctxIndex (BitVec.setWidth 32 i), rdOp .ctxData]
  | .result => [rdOp .dout0, rdOp .dout1]

/-- A host program's accesses, in program order (20_memory.md R64). -/
def hostProgram (p : List HostStmt) : List HostOp := p.flatMap HostStmt.expand

/-- The listing's line for one access at an offset: `W <offset> <value>` or `R <offset>`, in hexadecimal (30_encoding.md R89). -/
def hexText (digits n : Nat) : String :=
  String.ofList ((List.range digits).reverse.map fun k => (Nat.digitChar (n / 16 ^ k % 16)).toUpper)

/-- The listing of a statement's bus operation `wr` or `rd` (30_encoding.md R89). -/
def listingWrite (r : Reg) (v : Word) : String := "W " ++ hexText 2 r.offset ++ " " ++ hexText 8 v.toNat

/-- The listing of `rd` (30_encoding.md R89). -/
def listingRead (r : Reg) : String := "R " ++ hexText 2 r.offset

/-- Context creation, the block's part of `deriveContext` (70_reset_and_hazards.md R236), with each seed as its three words. -/
def contextCreation (key seed1 seed2 seed3 : Word × Word × Word) : List HostStmt :=
  [.loadkey key.1 key.2.1 key.2.2, .command .keyExpand, .wait,
    .loadseed seed1.1 seed1.2.1 seed1.2.2, .command .genTable1, .wait,
    .loadseed seed2.1 seed2.2.1 seed2.2.2, .command .genTable2, .wait,
    .loadseed seed3.1 seed3.2.1 seed3.2.2, .command .genTable3, .wait,
    .command .resetCtr, .wait, .rd .status]

/-- The 223 window indices that hold context, in the order of 45_context_control.md R181. -/
def contextIndices : List Byte :=
  ((List.range 0x05) ++ (List.range 26).map (0x10 + ·) ++ (List.range 192).map (0x40 + ·)).map (BitVec.ofNat 8)

/-- The export of a context (45_context_control.md R181). -/
def exportContext : List HostStmt := contextIndices.map .ctxrd

/-- The import of the words of another context, index by index (45_context_control.md R181). -/
def importContext (word : List (Byte × Word)) : List HostStmt := word.map fun p => .ctxwr p.1 p.2

end Sys2Proof.Machine
end

