-- ==== Sys2Proof/Machine/Step.lean ====
section
/-! DEFINITION. The step of the machine, and how the host of this model places a command where the engine takes its next one.
An execution is one total order of host accesses, completions and resets (20_memory.md R63); each step is one of them. -/

namespace Sys2Proof.Machine

/-- One step of the machine: the agent whose turn it is moves (10_state.md R22). When no agent has anything to do the block is
idle and its state persists (60_exceptions.md R222). -/
def step (s : State) : Host.Outcome State Fault Refusal :=
  match s.turn with
  | none => .next s
  | some .engine => engineTurn s.endTurn
  | some .host => hostTurn s.endTurn
  | some (.reset n) => .next (s.endTurn.hardwareReset n)

/-- `s` with the command word of the low 32 bits of `w` in flight and the engine's turn next, so that the next step completes it.
It stands for a host write to `CMD` that was accepted (60_exceptions.md R206; log entry 11). -/
def State.withFetchWord (s : State) (nbits w : Nat) : State := (s.start (tableWord nbits w)).giveEngineTurn

end Sys2Proof.Machine
end

