-- ==== Sys2Proof/Safety.lean ====
section
/-! DEFINITION. What a safe run of the block is: the invariants every reachable state keeps (10_state.md R42, R43;
60_exceptions.md R201, R207), the safe outcomes of a step, and the words the statements use for what a step is about to do. -/

namespace Sys2Proof.Machine

/-- The invariant of every reachable state: the ranges of 10_state.md R43; an error record that agrees with R24 and
60_exceptions.md R201 (`ERRCODE` is 0 exactly while `ERR` = 0, and otherwise the code of an error kind); and a legal command in
flight (60_exceptions.md R207), with the valid bits it was accepted with (R206). -/
structure State.Inv (s : State) : Prop where
  /-- `RK_OFFSET < 18`, so every round key a window selects exists. -/
  offset : s.rkOffset.toNat < Config.ofsMod
  /-- `EVO_MINOR < 2000`. -/
  minor : s.evoMinor.toNat < Config.evoMinorLim
  /-- `ERRCODE` = 0 while `ERR` = 0. -/
  noError : s.err = false → s.errCode = 0
  /-- While `ERR` = 1, `ERRCODE` is the code of an error kind: 1 to 5, never a reserved code. -/
  anError : s.err = true → ∃ e : ErrorKind, s.errCode = e.code
  /-- A command in flight is legal, and a cipher command has all four valid bits. -/
  legal : s.busy = true → ∃ i : Instr, s.inFlight = .ok i ∧ (isCipher i = true → s.allValid = true)

/-- The evolution counters count the same calls: `EVO_MAJOR < 4000000` and `EVO_MAJOR mod 2000 = EVO_MINOR`
(10_state.md R43, while no window write has set either counter). -/
def State.evolutionInStep (s : State) : Prop :=
  s.evoMajor.toNat < Config.evoMajorLim ∧ s.evoMajor.toNat % Config.evoMinorLim = s.evoMinor.toNat

/-- A table is a bijection of 0..255 onto itself (10_state.md R42). -/
def IsPermutation (T : Table) : Prop := Function.Bijective (lookup T)

/-- The three tables are permutations (10_state.md R42). -/
def State.tablesArePermutations (s : State) : Prop := ∀ t : TableId, IsPermutation (s.table t)

/-- A safe outcome: a next state that keeps the invariant, or the bus error of a host's own access. A refusal is not safe. -/
def SafeOutcome : Host.Outcome State Fault Refusal → Prop
  | .next t => t.Inv
  | .fault (.busError _ _) => True
  | .refused _ => False

/-- The next step is a host write of `v` to register `r`, the access being one the block takes. -/
def State.isWriteTo (s : State) (r : Reg) (v : Word) : Prop :=
  s.turn = some .host ∧ s.host.head? = some (wrOp r v)

/-- The next step is hardware reset. -/
def State.isReset (s : State) : Prop := ∃ n, s.turn = some (.reset n)

/-- The next step completes command `i`. -/
def State.isCompletionOf (s : State) (i : Instr) : Prop :=
  s.turn = some .engine ∧ s.busy = true ∧ s.inFlight = .ok i

/-- The next step stores into the context window at an index that `p` holds of: a write to `CTX_DATA` with no command in
flight. -/
def State.isWindowWrite (s : State) (p : Byte → Prop) : Prop :=
  s.busy = false ∧ p s.ctxIndex ∧ ∃ v, s.isWriteTo .ctxData v

/-- `s` with the model's own fields and the error record of `t`: equal results mean that two states agree in every register and
every piece of context the block holds. -/
def State.withRecordOf (s t : State) : State :=
  { s with err := t.err, errCode := t.errCode, host := t.host, sched := t.sched, resp := t.resp, draws := t.draws }

/-- `s` with the context of `t` (10_state.md section 3) and every valid bit set: what an import of `t`'s words makes of `s`
(45_context_control.md R181). DESIGN CHOICE, unsafe: R181 says the valid bits become equal to the source's, R178 sets each one at
a write into its region; where a valid bit of `t` is 0 the two clash and the model follows R178 (log entry 24). -/
def State.withContextOf (s t : State) : State :=
  { s with
    ctrLo := t.ctrLo, ctrHi := t.ctrHi, evoMinor := t.evoMinor, evoMajor := t.evoMajor, rkOffset := t.rkOffset
    rk := t.rk, t1 := t.t1, t2 := t.t2, t3 := t.t3
    keysValid := true, t1Valid := true, t2Valid := true, t3Valid := true }

/-- The words `CtxRead` gives of `t`, written into the window of `s` at the indices listed by `CtxWrite` directly. The procedure of
45_context_control.md R181 writes `CTX_INDEX` before each word as well; that write is left out here. -/
def State.importWords (s t : State) (indices : List Byte) : State :=
  indices.foldl (fun u i => u.ctxWrite i (t.ctxRead i)) s

/-- The commands of a list completed one after another. -/
def execAll : List Instr → State → Host.Outcome State Fault Refusal
  | [], s => .next s
  | i :: is, s =>
    match exec i s with
    | .next t => execAll is t
    | .fault r => .fault r
    | .refused r => .refused r

/-- `ENC_CTR` completed once for each block of a list, `DIN` written with the block first; the answer is the last state and the
blocks of `DOUT`, in order (45_context_control.md R172). -/
def encryptBlocks : List (Word × Word) → State → Option (State × List (Word × Word))
  | [], s => some (s, [])
  | p :: ps, s =>
    match exec .encCtr { s with din0 := p.1, din1 := p.2 } with
    | .next t =>
      match encryptBlocks ps t with
      | some (u, cs) => some (u, (t.dout0, t.dout1) :: cs)
      | none => none
    | .fault _ => none
    | .refused _ => none

/-- Table1 and Table2 after `n` calls of the evolution from counters 0: Table1 is recombined at each multiple of 2000, Table2 at
each multiple of 4000000, both from the tables before that call (43_stream_transform.md R144, R150). -/
def tablesAfterCalls (T3 : Table) (start : Table × Table) : Nat → Table × Table
  | 0 => start
  | n + 1 =>
    let p := tablesAfterCalls T3 start n
    (if (n + 1) % Config.evoMinorLim = 0 then compose p.2 p.1 else p.1,
      if (n + 1) % Config.evoMajorLim = 0 then compose T3 p.2 else p.2)

end Sys2Proof.Machine
end

