-- ==== Sys2Proof/Certificates/Slice0/Obligations.lean ====
section
/-! DEFINITION. The statements for the provers, drawn from the numbered rules of spec/. Each docstring names the rule it
formalises. A right side `{ s with … }` is the whole frame: every field it does not name is unchanged. -/

open Sys2Proof Sys2Proof.Machine

/-! ## Encoding -/

/-- 30_encoding.md R84: a word decodes to a command exactly when it is the map's word for that command, and the map's eight words
are these. (In particular the decoding of every command's encoding is that command.) -/
def Obligations.DecodeAcceptsExactlyTheMapsWords : Prop :=
  (∀ (w : Word) (i : Instr), decode w = .ok i ↔ w = encode i) ∧
    encode .nop = 0x00000000 ∧ encode .keyExpand = 0x00000001 ∧ encode .genTable1 = 0x00000102 ∧
    encode .genTable2 = 0x00000202 ∧ encode .genTable3 = 0x00000302 ∧ encode .encCtr = 0x00000003 ∧
    encode .encPos = 0x00000004 ∧ encode .resetCtr = 0x00000005 ∧
    ∀ i : Instr, opField (encode i) = i.op ∧ tselField (encode i) = i.tsel ∧ rsvField (encode i) = 0

/-- 30_encoding.md R82, R83, R86: the words `Decode` refuses are those with an opcode 0x06 to 0xFF, a nonzero `RSV`, `TSEL` = 0
with opcode 0x02, or a nonzero `TSEL` with another opcode; they are the words that fail a well-formedness check. -/
def Obligations.IllegalWordsAreTheFourKinds : Prop :=
  ∀ w : Word,
    ((∃ e, decode w = .error e) ↔
      0x06 ≤ (opField w).toNat ∨ rsvField w ≠ 0 ∨ (opField w = 0x02 ∧ tselField w = 0) ∨
        (opField w ≠ 0x02 ∧ tselField w ≠ 0)) ∧
    ((∃ i, decode w = .ok i) ↔ fieldsOk (opField w) (tselField w) (rsvField w) = true)

/-- 30_encoding.md R84, 60_exceptions.md R205: some words of each family, legal and illegal. -/
def Obligations.SampleWordsDecode : Prop :=
  decode 0x00000000 = .ok .nop ∧ decode 0x00000001 = .ok .keyExpand ∧ decode 0x00000302 = .ok .genTable3 ∧
    decode 0x00000003 = .ok .encCtr ∧ decode 0x00000004 = .ok .encPos ∧ decode 0x00000005 = .ok .resetCtr ∧
    decode 0x00000006 = .error .unassignedOpcode ∧ decode 0x00000002 = .error .noTableSelected ∧
    decode 0x00000103 = .error .strayTableSelect ∧ decode 0x80000003 = .error .reservedBitsSet ∧
    decode 0x000000FF = .error .unassignedOpcode

/-! ## The step and the commands -/

/-- 60_exceptions.md R207: when the engine's turn comes while a command is in flight, the step is the meaning of the command
that `eng.cmd` decodes to, at the state whose schedule has lost that turn. The words the model places for a command
(`withFetchWord`, the model's own placing, log entry 11) make the next step run it. -/
def Obligations.StepCompletesTheDecodedCommand : Prop :=
  (∀ (s : State) (i : Instr), s.isCompletionOf i → step s = exec i s.endTurn) ∧
    ∀ (s : State) (i : Instr), (s.withFetchWord 32 (encode i).toNat).isCompletionOf i

/-- 60_exceptions.md R206, R207: a host that writes a command's word to `CMD` while no command is in flight, the valid bits set
if it is a cipher command, has it accepted by that step, and with nothing else scheduled (the model's own order then, log entry 1)
the next step completes it. -/
def Obligations.WrittenCommandIsAcceptedThenCompleted : Prop :=
  ∀ (s : State) (i : Instr) (ops : List HostOp), s.busy = false → (isCipher i = true → s.allValid = true) →
    s.sched = [] → s.host = wrOp .cmd (encode i) :: ops →
    ∃ t : State, step s = .next t ∧ t = { s.start (encode i) with host := ops, resp := .done } ∧ step t = exec i t

/-- 45_context_control.md R170: `NOP` completes in every state; `eng.busy <- 0` and nothing else changes. -/
def Obligations.NopClearsBusyAlone : Prop :=
  ∀ s : State, exec .nop s = .next { s with busy := false }

/-- 42_key_schedule.md R131: `KEY_EXPAND` completes in every state; it writes the 26 round keys and `v.keys`, clears `BUSY`, and
changes nothing else (the key registers, tables, counters and `DOUT` among the rest). -/
def Obligations.KeyExpandReplacesTheRoundKeys : Prop :=
  ∀ s : State, exec .keyExpand s =
    .next { s with rk := keyExpand s.key0 s.key1 s.key2, keysValid := true, busy := false }

/-- 41_table_generation.md R121, R122; 10_state.md R30: each `GEN_TABLE t` completes in every state; it replaces table `t` by
`PermGen` of the seed, which is a permutation, sets `v.tt`, clears `BUSY`, and changes nothing else. Seed byte `k` is byte
`k mod 4` of `SEED(k div 4)`. -/
def Obligations.GenTableReplacesOneTable : Prop :=
  (∀ s : State,
    exec .genTable1 s = .next { s with t1 := permGen s.seed, t1Valid := true, busy := false } ∧
    exec .genTable2 s = .next { s with t2 := permGen s.seed, t2Valid := true, busy := false } ∧
    exec .genTable3 s = .next { s with t3 := permGen s.seed, t3Valid := true, busy := false } ∧
    IsPermutation (permGen s.seed)) ∧
  ∀ (s : State) (k : Fin 4),
    s.seed[k.val] = byteOf s.seed0 k.val ∧ s.seed[4 + k.val] = byteOf s.seed1 k.val ∧
      s.seed[8 + k.val] = byteOf s.seed2 k.val

/-- 43_stream_transform.md R142, R143, R145: `ENC_CTR` completes in every state. The output comes from the state before the call;
then the 64-bit counter, the evolution (both recombinations from the tables before the call) and the offset; `BUSY` is cleared
and nothing else changes. -/
def Obligations.EncCtrTransformsOneBlock : Prop :=
  ∀ s : State,
    let p := rounds s.rk (bswap32 s.ctrHi) (bswap32 s.ctrLo) s.rkOffset.toNat 7
    let c := joinWords s.ctrHi s.ctrLo + 1
    let minor := 2000 ≤ (s.evoMinor + 1).toNat
    let major := minor ∧ 4000000 ≤ (s.evoMajor + 1).toNat
    exec .encCtr s = .next { s with
      dout0 := s.din0 ^^^ subWord s.t1 p.1
      dout1 := s.din1 ^^^ subWord s.t1 p.2
      ctrLo := lowWord c
      ctrHi := highWord c
      evoMinor := if minor then 0 else s.evoMinor + 1
      evoMajor := if major then 0 else s.evoMajor + 1
      t1 := if minor then compose s.t2 s.t1 else s.t1
      t2 := if major then compose s.t3 s.t2 else s.t2
      rkOffset := BitVec.ofNat 8 ((s.rkOffset.toNat + 7) % 18)
      busy := false }

/-- 44_packet_transform.md R161, R162; 43_stream_transform.md R142, R143: `ENC_POS` completes in every state. All 26 rounds on the
position's nonce, then the evolution; the counter, the offset and the position registers keep their values and nothing else
changes. -/
def Obligations.EncPosTransformsOneBlock : Prop :=
  ∀ s : State,
    let n := posNonce (joinWords s.pidxHi s.pidxLo) (joinWords s.psizeHi s.psizeLo) (joinWords s.boffHi s.boffLo)
    let p := rounds s.rk (bswap32 (highWord n)) (bswap32 (lowWord n)) 0 26
    let minor := 2000 ≤ (s.evoMinor + 1).toNat
    let major := minor ∧ 4000000 ≤ (s.evoMajor + 1).toNat
    exec .encPos s = .next { s with
      dout0 := s.din0 ^^^ subWord s.t1 p.1
      dout1 := s.din1 ^^^ subWord s.t1 p.2
      evoMinor := if minor then 0 else s.evoMinor + 1
      evoMajor := if major then 0 else s.evoMajor + 1
      t1 := if minor then compose s.t2 s.t1 else s.t1
      t2 := if major then compose s.t3 s.t2 else s.t2
      busy := false }

/-- 45_context_control.md R171: `RESET_CTR` completes in every state; the counter, both evolution counters and the offset become 0,
`BUSY` is cleared, and nothing else changes. -/
def Obligations.ResetCtrRewindsThePosition : Prop :=
  ∀ s : State, exec .resetCtr s =
    .next { s with ctrLo := 0, ctrHi := 0, evoMinor := 0, evoMajor := 0, rkOffset := 0, busy := false }

/-- 30_encoding.md R88, 60_exceptions.md R207: every command completes in every state, clears `BUSY`, records no error, and leaves
`eng.cmd`, every input register, `CTX_INDEX` and the valid bits already set as they are. -/
def Obligations.EveryCommandCompletesAndKeepsItsInputs : Prop :=
  ∀ (s : State) (i : Instr), ∃ t : State, exec i s = .next t ∧ t.busy = false ∧ t.cmd = s.cmd ∧
    t.err = s.err ∧ t.errCode = s.errCode ∧
    t.key0 = s.key0 ∧ t.key1 = s.key1 ∧ t.key2 = s.key2 ∧ t.seed0 = s.seed0 ∧ t.seed1 = s.seed1 ∧ t.seed2 = s.seed2 ∧
    t.din0 = s.din0 ∧ t.din1 = s.din1 ∧ t.pidxLo = s.pidxLo ∧ t.pidxHi = s.pidxHi ∧ t.psizeLo = s.psizeLo ∧
    t.psizeHi = s.psizeHi ∧ t.boffLo = s.boffLo ∧ t.boffHi = s.boffHi ∧ t.ctxIndex = s.ctxIndex ∧
    (s.keysValid = true → t.keysValid = true) ∧ (s.t1Valid = true → t.t1Valid = true) ∧
    (s.t2Valid = true → t.t2Valid = true) ∧ (s.t3Valid = true → t.t3Valid = true) ∧
    (isCipher i = false → t.dout0 = s.dout0 ∧ t.dout1 = s.dout1)

/-- 43_stream_transform.md R144: for either cipher command, Table1 is recombined from the Table2 of before the step, Table2 after
it from Table3 and that same Table2; the major counter is tested only when the minor counter fires, and otherwise its count
waits. -/
def Obligations.EvolutionOrder : Prop :=
  ∀ (s : State) (i : Instr), isCipher i = true → ∃ t : State, exec i s = .next t ∧ t.t3 = s.t3 ∧
    (2000 ≤ (s.evoMinor + 1).toNat → t.t1 = compose s.t2 s.t1 ∧ t.evoMinor = 0) ∧
    (2000 ≤ (s.evoMinor + 1).toNat → 4000000 ≤ (s.evoMajor + 1).toNat →
      t.t1 = compose s.t2 s.t1 ∧ t.t2 = compose s.t3 s.t2 ∧ t.evoMajor = 0) ∧
    (2000 ≤ (s.evoMinor + 1).toNat → (s.evoMajor + 1).toNat < 4000000 →
      t.t2 = s.t2 ∧ t.evoMajor = s.evoMajor + 1) ∧
    ((s.evoMinor + 1).toNat < 2000 →
      t.t1 = s.t1 ∧ t.t2 = s.t2 ∧ t.evoMinor = s.evoMinor + 1 ∧ t.evoMajor = s.evoMajor + 1)

/-! ## What the commands compute -/

/-- 43_stream_transform.md R146: encrypting a ciphertext block from a state with equal counter, offset, round keys and Table1 gives
the plaintext back. -/
def Obligations.EncCtrIsSelfInverse : Prop :=
  ∀ s s' t : State, exec .encCtr s = .next t →
    s'.ctrLo = s.ctrLo → s'.ctrHi = s.ctrHi → s'.rkOffset = s.rkOffset → s'.rk = s.rk → s'.t1 = s.t1 →
    s'.din0 = t.dout0 → s'.din1 = t.dout1 →
    ∃ t' : State, exec .encCtr s' = .next t' ∧ t'.dout0 = s.din0 ∧ t'.dout1 = s.din1

/-- 44_packet_transform.md R164: two `ENC_POS` with equal position nonce modulo 2^64, equal `DIN`, `RK` and `T1` give equal `DOUT`,
whatever else differs; (6, 1, 0) and (2^64 - 1, 2, 1) share a nonce. Encrypting the output at an equal nonce gives the input
back. -/
def Obligations.EncPosDependsOnTheNonceAlone : Prop :=
  (∀ s s' : State, s'.positionNonce = s.positionNonce → s'.rk = s.rk → s'.t1 = s.t1 →
    ∃ t t' : State, exec .encPos s = .next t ∧ exec .encPos s' = .next t' ∧
      (s'.din0 = s.din0 → s'.din1 = s.din1 → t'.dout0 = t.dout0 ∧ t'.dout1 = t.dout1) ∧
      (s'.din0 = t.dout0 → s'.din1 = t.dout1 → t'.dout0 = s.din0 ∧ t'.dout1 = s.din1)) ∧
  posNonce 6 1 0 = posNonce 0xFFFFFFFFFFFFFFFF 2 1

/-- 44_packet_transform.md R161: the nonce is `(pi * ps + 8 * bo) mod 2^64` over the integers, which is the same as reducing after
each operation, with the rule's corner cases. -/
def Obligations.PosNonceIsTheModularSum : Prop :=
  (∀ pi ps bo : DWord,
    (posNonce pi ps bo).toNat = (pi.toNat * ps.toNat + 8 * bo.toNat) % 2 ^ 64 ∧
    (posNonce pi ps bo).toNat = (pi.toNat * ps.toNat % 2 ^ 64 + 8 * bo.toNat % 2 ^ 64) % 2 ^ 64) ∧
  (∀ pi bo : DWord, posNonce pi 0 bo = 8 * bo) ∧
  (∀ pi ps bo : DWord, posNonce pi ps bo = posNonce pi ps (bo &&& 0x1FFFFFFFFFFFFFFF)) ∧
  posNonce 0xFFFFFFFFFFFFFFFF 2 1 = 6

/-- 43_stream_transform.md R145, R148: `ENC_CTR` adds one to the 64-bit counter: the low half carries into the high half when it is
0xFFFFFFFF, and 2^64 - 1 wraps to 0; no error is recorded and no flag is set. -/
def Obligations.CounterCarriesAndWraps : Prop :=
  ∀ s : State, ∃ t : State, exec .encCtr s = .next t ∧ t.ctr = s.ctr + 1 ∧
    (s.ctrLo ≠ 0xFFFFFFFF → t.ctrLo = s.ctrLo + 1 ∧ t.ctrHi = s.ctrHi) ∧
    (s.ctrLo = 0xFFFFFFFF → t.ctrLo = 0 ∧ t.ctrHi = s.ctrHi + 1) ∧
    t.err = s.err ∧ t.errCode = s.errCode

/-- 43_stream_transform.md R149: from offset 0 the offsets before successive `ENC_CTR` are the 18 residues in the rule's order and
then 0 again; `ENC_POS` and `GEN_TABLE` do not move the offset, and `RESET_CTR` returns it to 0. -/
def Obligations.OffsetCyclesThroughTheResidues : Prop :=
  (∀ (n : Nat) (s : State), s.rkOffset.toNat < 18 →
    ∃ t : State, execAll (List.replicate n .encCtr) s = .next t ∧ t.rkOffset.toNat = (s.rkOffset.toNat + 7 * n) % 18) ∧
  (List.range 19).map (fun n => (0 + 7 * n) % 18) = [0, 7, 14, 3, 10, 17, 6, 13, 2, 9, 16, 5, 12, 1, 8, 15, 4, 11, 0] ∧
  (∀ r < 18, ∃ n < 18, (7 * n) % 18 = r ∧ ∀ m < 18, (7 * m) % 18 = r → m = n) ∧
  (∀ (s : State) (i : Instr), i = .encPos ∨ i = .genTable1 ∨ i = .genTable2 ∨ i = .genTable3 →
    ∃ t : State, exec i s = .next t ∧ t.rkOffset = s.rkOffset) ∧
  ∀ s : State, ∃ t : State, exec .resetCtr s = .next t ∧ t.rkOffset = 0

/-- 43_stream_transform.md R150: from evolution counters 0, after any sequence of cipher commands of either kind, `n` in all, Table1
has been recombined at exactly the calls that are multiples of 2000 and Table2 at exactly the multiples of 4000000, Table3 is
unchanged, and the counters are `n mod 2000` and `n mod 4000000`. -/
def Obligations.EvolutionFollowsTheCallCount : Prop :=
  ∀ (cs : List Instr) (s : State), (∀ i ∈ cs, isCipher i = true) → s.evoMinor = 0 → s.evoMajor = 0 →
    ∃ t : State, execAll cs s = .next t ∧ (t.t1, t.t2) = tablesAfterCalls s.t3 (s.t1, s.t2) cs.length ∧ t.t3 = s.t3 ∧
      t.evoMinor.toNat = cs.length % 2000 ∧ t.evoMajor.toNat = cs.length % 4000000

/-- 45_context_control.md R172: from counters 0, any 1999 or fewer blocks encrypted by `ENC_CTR`, then `RESET_CTR`, then the
ciphertext blocks encrypted in the same order, give the blocks back. -/
def Obligations.RoundTripWithinTheBound : Prop :=
  ∀ (blocks : List (Word × Word)) (s : State), blocks.length ≤ 1999 →
    s.ctrLo = 0 → s.ctrHi = 0 → s.evoMinor = 0 → s.evoMajor = 0 → s.rkOffset = 0 →
    ∃ (t u v : State) (cipher : List (Word × Word)), encryptBlocks blocks s = some (t, cipher) ∧
      exec .resetCtr t = .next u ∧ encryptBlocks cipher u = some (v, blocks)

/-- 44_packet_transform.md R163: with Table1 the identity and `DIN` = (0, 0), `ENC_POS` gives the 26 rounds' words of the byte-swapped
nonce halves; with the key schedule and position of the published Speck64/96 vector it gives that ciphertext. -/
def Obligations.EncPosWithIdentityTableIsSpeck : Prop :=
  (∀ s : State, s.t1 = identityTable → s.din0 = 0 → s.din1 = 0 →
    ∃ t : State, exec .encPos s = .next t ∧
      (t.dout0, t.dout1) = rounds s.rk (bswap32 (highWord s.positionNonce)) (bswap32 (lowWord s.positionNonce)) 0 26) ∧
  ∀ s : State, s.t1 = identityTable → s.din0 = 0 → s.din1 = 0 →
    s.rk = keyExpand 0x03020100 0x0B0A0908 0x13121110 → s.packetIndex = 0x2046617465616E73 → s.packetSize = 1 →
    s.byteOffset = 0 → ∃ t : State, exec .encPos s = .next t ∧ t.dout0 = 0x9F7952EC ∧ t.dout1 = 0x4175946C

/-! ## The datapath -/

/-- 40_datapath.md R105: `ARXinv` by its formula undoes `ARX` for a fixed round key, both ways, and so any sequence of rounds is a
bijection on pairs. -/
def Obligations.ArxRoundIsInvertible : Prop :=
  (∀ x1 y1 k : Word, (arxInv x1 y1 k).2 = ror32 (y1 ^^^ x1) 3 ∧
    (arxInv x1 y1 k).1 = rol32 ((x1 ^^^ k) - (arxInv x1 y1 k).2) 8) ∧
  (∀ x y k : Word, arxInv (arx x y k).1 (arx x y k).2 k = (x, y) ∧ arx (arxInv x y k).1 (arxInv x y k).2 k = (x, y)) ∧
  ∀ (rk : KeyFile) (first count : Nat), Function.Bijective fun p : Word × Word => rounds rk p.1 p.2 first count

/-- 40_datapath.md R100, R101, R102: the two rotations are rotations, with the slices and examples the rules give; `bswap32` reverses
the four bytes and is its own inverse. -/
def Obligations.RotationsAndByteSwapMoveTheBits : Prop :=
  (∀ (v : Word) (n : Nat), 1 ≤ n → n ≤ 31 → ror32 v n = v.rotateRight n ∧ rol32 v n = v.rotateLeft n) ∧
  (∀ v : Word, ror32 v 8 = v.extractLsb' 0 8 ++ v.extractLsb' 8 24 ∧ rol32 v 3 = v.extractLsb' 0 29 ++ v.extractLsb' 29 3) ∧
  ror32 0x00000001 8 = 0x01000000 ∧ rol32 0x80000001 3 = 0x0000000C ∧
  (∀ v : Word, bswap32 v = v.extractLsb' 0 8 ++ v.extractLsb' 8 8 ++ v.extractLsb' 16 8 ++ v.extractLsb' 24 8) ∧
  (∀ v : Word, bswap32 (bswap32 v) = v) ∧ bswap32 0x65616E73 = 0x736E6165

/-- 40_datapath.md R106: byte `k` of `SubWord(T, w)` is `T[byte k of w]`, for k in 0..3, and the identity table changes nothing. -/
def Obligations.SubWordSubstitutesEachByteInPlace : Prop :=
  (∀ (T : Table) (w : Word) (k : Fin 4), byteOf (subWord T w) k.val = lookup T (byteOf w k.val)) ∧
  ∀ w : Word, subWord identityTable w = w

/-- 40_datapath.md R107: `Compose(A, B)[x] = A[B[x]]`, a composition of permutations is a permutation, and the identity is neutral on
either side. -/
def Obligations.ComposeAppliesTheSecondTableFirst : Prop :=
  (∀ (A B : Table) (x : Byte), lookup (compose A B) x = lookup A (lookup B x)) ∧
  (∀ A B : Table, IsPermutation A → IsPermutation B → IsPermutation (compose A B)) ∧
  ∀ A : Table, compose A identityTable = A ∧ compose identityTable A = A

/-- 41_table_generation.md R122: `PermGen` of every seed is a permutation, and a step with `j = i` leaves the table as it was. -/
def Obligations.PermGenIsAPermutation : Prop :=
  (∀ seed : Seed, IsPermutation (permGen seed)) ∧
  ∀ (seed : Seed) (T : Table) (j : Byte) (n : Nat),
    (permGenStep seed (T, j) n).2 = BitVec.ofNat 8 n → (permGenStep seed (T, j) n).1 = T

/-- 41_table_generation.md R120: `PermGen` runs 256 steps from the identity and `j` = 0; each adds `T[(i + k) mod 256] + k` to `j`,
`k` being seed byte `i mod 12`, and swaps entries `i` and `j` of the table. -/
def Obligations.PermGenFollowsTheLoop : Prop :=
  ∀ seed : Seed, ∃ (T : Nat → Table) (j : Nat → Byte),
    (∀ x : Byte, lookup (T 0) x = x) ∧ j 0 = 0 ∧ permGen seed = T 256 ∧
    ∀ (i : Nat) (h : i % 12 < 12), i < 256 →
      j (i + 1) = j i + lookup (T i) (BitVec.ofNat 8 i + seed[i % 12]) + seed[i % 12] ∧
      lookup (T (i + 1)) (BitVec.ofNat 8 i) = lookup (T i) (j (i + 1)) ∧
      lookup (T (i + 1)) (j (i + 1)) = lookup (T i) (BitVec.ofNat 8 i) ∧
      ∀ x : Byte, x ≠ BitVec.ofNat 8 i → x ≠ j (i + 1) → lookup (T (i + 1)) x = lookup (T i) x

/-- 42_key_schedule.md R130: the round keys are the successive values of `A`; even steps advance `(B, A)` and odd steps `(C, A)` by one
ARX round with the step's index. -/
def Obligations.KeyScheduleFollowsTheRecurrence : Prop :=
  ∀ A B C : Word, ∃ a b c : Nat → Word, a 0 = A ∧ b 0 = B ∧ c 0 = C ∧
    (∀ i : Fin 26, (keyExpand A B C)[i] = a i.val) ∧
    ∀ i < 26,
      (i % 2 = 0 → (b (i + 1), a (i + 1)) = arx (b i) (a i) (BitVec.ofNat 32 i) ∧ c (i + 1) = c i) ∧
      (i % 2 = 1 → (c (i + 1), a (i + 1)) = arx (c i) (a i) (BitVec.ofNat 32 i) ∧ b (i + 1) = b i)

/-- 42_key_schedule.md R132: the reference expansion, and the 26 rounds with it on the published Speck64/96 plaintext. -/
def Obligations.KeyScheduleMatchesTheReferenceExpansion : Prop :=
  (keyExpand 0x03020100 0x0B0A0908 0x13121110).toList =
    [0x03020100, 0x131D0309, 0xBBD80D53, 0x1A2370C1, 0xE45D26DD, 0x63CB3F1C, 0x27597D5A, 0x205175B4, 0xDB01DB9F, 0x9812AAC8,
      0x16796373, 0xFF72647B, 0xCCDA7364, 0xD6F4B7C9, 0x2589BF5A, 0x39741C59, 0x85A6AA9C, 0x208EB076, 0x71A9351E, 0x8EFF59E3,
      0x498FF996, 0x15EC7C21, 0x0F49104A, 0xD8EA21BC, 0xDCDB415C, 0x2FA7E901] ∧
  rounds (keyExpand 0x03020100 0x0B0A0908 0x13121110) 0x74614620 0x736E6165 0 26 = (0x9F7952EC, 0x4175946C)

/-! ## The register aperture and errors -/

/-- 20_memory.md R53, R56; 10_state.md R23, R28: what a host read returns at each offset with no command in flight or at a register
that is defined while busy; a reserved offset reads 0; and a read changes nothing but the model's own port fields. -/
def Obligations.ReadsReturnTheMapsRegister : Prop :=
  (∀ s : State,
    s.readWord 0x00 = 0x53504B52 ∧ s.readWord 0x04 = s.statusWord ∧ s.readWord 0x08 = 0 ∧
    s.readWord 0x10 = s.key0 ∧ s.readWord 0x14 = s.key1 ∧ s.readWord 0x18 = s.key2 ∧
    s.readWord 0x20 = s.seed0 ∧ s.readWord 0x24 = s.seed1 ∧ s.readWord 0x28 = s.seed2 ∧
    s.readWord 0x30 = s.din0 ∧ s.readWord 0x34 = s.din1 ∧
    s.readWord 0x40 = s.pidxLo ∧ s.readWord 0x44 = s.pidxHi ∧ s.readWord 0x48 = s.psizeLo ∧
    s.readWord 0x4C = s.psizeHi ∧ s.readWord 0x50 = s.boffLo ∧ s.readWord 0x54 = s.boffHi ∧
    s.readWord 0x60 = BitVec.setWidth 32 s.ctxIndex) ∧
  (∀ s : State, s.busy = false →
    s.readWord 0x38 = s.dout0 ∧ s.readWord 0x3C = s.dout1 ∧ s.readWord 0x64 = s.ctxRead s.ctxIndex) ∧
  (∀ (s : State) (off : Nat), (∀ r : Reg, r.offset ≠ off) → s.readWord off = 0) ∧
  ∀ (s : State) (off : Nat), ∃ n : Nat, s.hostRead off = { s with resp := .data (s.readWord off), draws := n }

/-- 20_memory.md R58; 93_implementation_defined.md U1: while a command is in flight a read of `DOUT0`, `DOUT1` or `CTX_DATA` returns
the next free value and uses it up (how it is drawn is the model's own, log entry 4), and no other read does. -/
def Obligations.OpenReadsDrawAFreshValue : Prop :=
  ∀ (s : State) (off : Nat),
    (s.busy = true → off = 0x38 ∨ off = 0x3C ∨ off = 0x64 →
      s.hostRead off = { s with resp := .data (Config.any32 s.draws), draws := s.draws + 1 }) ∧
    (s.busy = false ∨ (off ≠ 0x38 ∧ off ≠ 0x3C ∧ off ≠ 0x64) →
      s.hostRead off = { s with resp := .data (s.readWord off) })

/-- 20_memory.md R53, R57: what a host write does at each offset while no command is in flight, and at `STATUS` at any time; a
read-only or reserved offset ignores it at any time. -/
def Obligations.WritesStoreAsTheMapSays : Prop :=
  (∀ (s : State) (v : Word), s.busy = false →
    s.writeWord 0x08 v = s.accept v ∧
    s.writeWord 0x10 v = { s with key0 := v } ∧ s.writeWord 0x14 v = { s with key1 := v } ∧
    s.writeWord 0x18 v = { s with key2 := v } ∧ s.writeWord 0x20 v = { s with seed0 := v } ∧
    s.writeWord 0x24 v = { s with seed1 := v } ∧ s.writeWord 0x28 v = { s with seed2 := v } ∧
    s.writeWord 0x30 v = { s with din0 := v } ∧ s.writeWord 0x34 v = { s with din1 := v } ∧
    s.writeWord 0x40 v = { s with pidxLo := v } ∧ s.writeWord 0x44 v = { s with pidxHi := v } ∧
    s.writeWord 0x48 v = { s with psizeLo := v } ∧ s.writeWord 0x4C v = { s with psizeHi := v } ∧
    s.writeWord 0x50 v = { s with boffLo := v } ∧ s.writeWord 0x54 v = { s with boffHi := v } ∧
    s.writeWord 0x60 v = { s with ctxIndex := v.extractLsb' 0 8 } ∧ s.writeWord 0x64 v = s.ctxWrite s.ctxIndex v) ∧
  (∀ (s : State) (v : Word), s.writeWord 0x04 v = if v.getLsbD 1 then { s with err := false, errCode := 0 } else s) ∧
  (∀ (s : State) (v : Word), s.writeWord 0x00 v = s ∧ s.writeWord 0x38 v = s ∧ s.writeWord 0x3C v = s) ∧
  ∀ (s : State) (off : Nat) (v : Word), (∀ r : Reg, r.offset ≠ off) → s.writeWord off v = s

/-- 60_exceptions.md R202, R203: a raised error sets `ERR` and, if no error was recorded, `ERRCODE` to its code; the first error's
code is kept; and nothing else changes. The codes are those of R201. -/
def Obligations.RaisedErrorKeepsTheFirstCode : Prop :=
  (∀ (s : State) (e : ErrorKind),
    (s.err = false → s.raise e = { s with err := true, errCode := e.code }) ∧
    (s.err = true → s.raise e = s)) ∧
  ErrorKind.code .illegalCmd = 1 ∧ ErrorKind.code .busy = 2 ∧ ErrorKind.code .notReady = 3 ∧
    ErrorKind.code .illegalValue = 4 ∧ ErrorKind.code .badIndex = 5

/-- 60_exceptions.md R204: while a command is in flight, a write to a gated register raises `BUSY` and does nothing else, whatever the
word; a write to `STATUS`, a read-only register or a reserved offset never raises it, so no write changes anything but the error
record; no read records an error, and a read of `DOUT0`, `DOUT1` or `CTX_DATA` then returns the free value. -/
def Obligations.BusyRefusesGatedWrites : Prop :=
  (∀ (s : State) (v : Word), s.busy = true →
    ∀ off ∈ [0x08, 0x10, 0x14, 0x18, 0x20, 0x24, 0x28, 0x30, 0x34, 0x40, 0x44, 0x48, 0x4C, 0x50, 0x54, 0x60, 0x64],
      s.writeWord off v = s.raise .busy) ∧
  (∀ (s : State) (off : Nat) (v : Word), s.busy = true →
    off ∉ [0x08, 0x10, 0x14, 0x18, 0x20, 0x24, 0x28, 0x30, 0x34, 0x40, 0x44, 0x48, 0x4C, 0x50, 0x54, 0x60, 0x64] →
      s.writeWord off v = s ∨ (off = 0x04 ∧ v.getLsbD 1 = true ∧ s.writeWord off v = { s with err := false, errCode := 0 })) ∧
  (∀ (s : State) (off : Nat) (v : Word), s.busy = true →
    ∃ (e : Bool) (c : BitVec 4), s.writeWord off v = { s with err := e, errCode := c }) ∧
  (∀ (s : State) (off : Nat), (s.hostRead off).err = s.err ∧ (s.hostRead off).errCode = s.errCode) ∧
  ∀ (s : State) (off : Nat), s.busy = true → off = 0x38 ∨ off = 0x3C ∨ off = 0x64 → s.readWord off = Config.any32 s.draws

/-- 60_exceptions.md R205: a write to `CMD`, with no command in flight, of a word that decodes to `Illegal` raises `ILLEGAL_CMD` and
nothing else happens; the rule's five examples are such words. -/
def Obligations.IllegalWordIsRefused : Prop :=
  (∀ (s : State) (w : Word), s.busy = false → (∃ e, decode w = .error e) → s.writeWord 0x08 w = s.raise .illegalCmd) ∧
  ∀ w ∈ ([0x00000006, 0x00000002, 0x00000103, 0x80000003, 0x000000FF] : List Word), ∃ e, decode w = .error e

/-- 60_exceptions.md R208: a write of `ENC_CTR` or `ENC_POS` to `CMD`, with no command in flight and some valid bit 0, raises
`NOT_READY` and is not accepted: nothing but the error record changes. After hardware reset both are refused so. -/
def Obligations.CipherCommandsNeedEveryValidBit : Prop :=
  (∀ (s : State) (w : Word), s.busy = false → w = 0x00000003 ∨ w = 0x00000004 →
    s.keysValid = false ∨ s.t1Valid = false ∨ s.t2Valid = false ∨ s.t3Valid = false →
    s.writeWord 0x08 w = s.raise .notReady) ∧
  ∀ (s : State) (n : Nat) (w : Word), w = 0x00000003 ∨ w = 0x00000004 →
    (s.hardwareReset n).writeWord 0x08 w = (s.hardwareReset n).raise .notReady

/-- 60_exceptions.md R206: with no command in flight a legal word is accepted when it is no cipher command or every valid bit is 1;
acceptance writes `eng.cmd` and `eng.busy` and nothing else. -/
def Obligations.AcceptanceStartsTheCommand : Prop :=
  ∀ (s : State) (i : Instr), s.busy = false →
    (isCipher i = true → s.keysValid = true ∧ s.t1Valid = true ∧ s.t2Valid = true ∧ s.t3Valid = true) →
    s.writeWord 0x08 (encode i) = { s with cmd := encode i, busy := true }

/-- 10_state.md R24: the fields of the `STATUS` word, bit by bit, the reserved bits reading 0. -/
def Obligations.StatusWordHasItsFields : Prop :=
  ∀ s : State,
    s.statusWord.getLsbD 0 = s.busy ∧ s.statusWord.getLsbD 1 = s.err ∧ s.statusWord.extractLsb' 2 2 = 0 ∧
    s.statusWord.extractLsb' 4 4 = s.errCode ∧ s.statusWord.getLsbD 8 = s.keysValid ∧ s.statusWord.getLsbD 9 = s.t1Valid ∧
    s.statusWord.getLsbD 10 = s.t2Valid ∧ s.statusWord.getLsbD 11 = s.t3Valid ∧ s.statusWord.extractLsb' 12 20 = 0

/-- 20_memory.md R55, 60_exceptions.md R214: a step faults exactly when the host's next access is inside the aperture and is not a
32-bit access at a multiple of 4; the fault names the offset and the width. That an access is inside when its start address is, so
that one which starts below `BASE` and overlaps the aperture is no fault, is the model's choice (log entry 23). -/
def Obligations.BusErrorIsTheOnlyFault : Prop :=
  ∀ (s : State) (off : Nat) (width : AccessWidth),
    step s = .fault (.busError off width) ↔
      s.turn = some .host ∧ off < 256 ∧ (width ≠ .word ∨ off % 4 ≠ 0) ∧
        ((s.host.head? = some (.read (Config.base + off) width)) ∨
          ∃ v, s.host.head? = some (.write (Config.base + off) width v))

/-- 20_memory.md R54 to R57: a 32-bit host access at offset `off`, a multiple of 4 inside the aperture, is one step that does the
read or the write at that offset and takes the access off the host's queue. An access outside `[BASE, BASE + 256)`, of any width and
address, does not reach the block: nothing of the block changes (the answer `notSelected` is the model's own, log entry 7; that
an access which starts below `BASE` and overlaps the aperture is outside is the model's choice, log entry 23). -/
def Obligations.HostAccessReachesItsRegister : Prop :=
  (∀ (s : State) (rest : List HostOp) (off : Nat), s.turn = some .host → off < 256 → off % 4 = 0 →
    (s.host = .read (Config.base + off) .word :: rest →
      step s = .next (({ s with host := rest, sched := s.sched.tail } : State).hostRead off)) ∧
    ∀ v : Word, s.host = .write (Config.base + off) .word v :: rest →
      step s = .next (({ s with host := rest, sched := s.sched.tail } : State).hostWrite off v)) ∧
  ∀ (s : State) (op : HostOp) (rest : List HostOp) (addr : Nat) (width : AccessWidth),
    s.turn = some .host → s.host = op :: rest → (op = .read addr width ∨ ∃ v, op = .write addr width v) →
    addr < Config.base ∨ Config.base + 256 ≤ addr →
    step s = .next { s with host := rest, sched := s.sched.tail, resp := .notSelected }

/-- 30_encoding.md R91: the poll of `wait` reads `STATUS` and stays the host's next access exactly while `BUSY` = 1. (One
queue entry for the poll loop is the model's own, log entry 2.) -/
def Obligations.PollRepeatsWhileBusy : Prop :=
  ∀ (s : State) (rest : List HostOp), s.turn = some .host → s.host = .pollBusy :: rest →
    step s = .next { s with
      sched := s.sched.tail, host := if s.busy then s.host else rest, resp := .data s.statusWord }

/-! ## The context window -/

/-- 45_context_control.md R176: the context word at every index; a reserved index reads 0. -/
def Obligations.WindowReadsTheContext : Prop :=
  ∀ s : State,
    s.ctxRead 0x00 = s.ctrLo ∧ s.ctxRead 0x01 = s.ctrHi ∧ s.ctxRead 0x02 = s.evoMinor ∧ s.ctxRead 0x03 = s.evoMajor ∧
    s.ctxRead 0x04 = BitVec.setWidth 32 s.rkOffset ∧
    (∀ i : Fin 26, s.ctxRead (BitVec.ofNat 8 (0x10 + i.val)) = s.rk[i]) ∧
    (∀ w : Fin 64, ∀ k : Fin 4,
      byteOf (s.ctxRead (BitVec.ofNat 8 (0x40 + w.val))) k.val = lookup s.t1 (BitVec.ofNat 8 (4 * w.val + k.val)) ∧
      byteOf (s.ctxRead (BitVec.ofNat 8 (0x80 + w.val))) k.val = lookup s.t2 (BitVec.ofNat 8 (4 * w.val + k.val)) ∧
      byteOf (s.ctxRead (BitVec.ofNat 8 (0xC0 + w.val))) k.val = lookup s.t3 (BitVec.ofNat 8 (4 * w.val + k.val))) ∧
    ∀ i : Byte, (0x05 ≤ i.toNat ∧ i.toNat ≤ 0x0F) ∨ (0x2A ≤ i.toNat ∧ i.toNat ≤ 0x3F) → s.ctxRead i = 0

/-- 60_exceptions.md R209: with no command in flight, a write to `CTX_DATA` raises `BAD_INDEX` at the reserved indices, and
`ILLEGAL_VALUE` at index 0x02 for 2000 or more and at index 0x04 for 18 or more, all 32 bits compared; every other write is
stored, with no error; and a read of `CTX_DATA` records no error, a reserved index reading 0. -/
def Obligations.WindowWritesAreChecked : Prop :=
  (∀ (s : State) (v : Word), s.busy = false →
    ((0x05 ≤ s.ctxIndex.toNat ∧ s.ctxIndex.toNat ≤ 0x0F) ∨ (0x2A ≤ s.ctxIndex.toNat ∧ s.ctxIndex.toNat ≤ 0x3F) →
      s.writeWord 0x64 v = s.raise .badIndex) ∧
    (s.ctxIndex = 0x02 ∧ 2000 ≤ v.toNat ∨ s.ctxIndex = 0x04 ∧ 18 ≤ v.toNat →
      s.writeWord 0x64 v = s.raise .illegalValue) ∧
    (¬((0x05 ≤ s.ctxIndex.toNat ∧ s.ctxIndex.toNat ≤ 0x0F) ∨ (0x2A ≤ s.ctxIndex.toNat ∧ s.ctxIndex.toNat ≤ 0x3F)) →
      ¬(s.ctxIndex = 0x02 ∧ 2000 ≤ v.toNat ∨ s.ctxIndex = 0x04 ∧ 18 ≤ v.toNat) →
      s.writeWord 0x64 v = s.ctxStore s.ctxIndex v ∧
        (s.ctxStore s.ctxIndex v).err = s.err ∧ (s.ctxStore s.ctxIndex v).errCode = s.errCode)) ∧
  ∀ s : State, (s.hostRead 0x64).err = s.err ∧ (s.hostRead 0x64).errCode = s.errCode ∧
    (s.busy = false →
      (0x05 ≤ s.ctxIndex.toNat ∧ s.ctxIndex.toNat ≤ 0x0F) ∨ (0x2A ≤ s.ctxIndex.toNat ∧ s.ctxIndex.toNat ≤ 0x3F) →
      s.readWord 0x64 = 0)

/-- 45_context_control.md R176, R178: a window write that is not refused is read back whole at its index and leaves every other index's
word as it was; a refused one leaves every word as it was. -/
def Obligations.WindowWriteIsReadBack : Prop :=
  ∀ (s : State) (i j : Byte) (v : Word),
    (ctxWriteError i v = none → (s.ctxWrite i v).ctxRead i = v) ∧
    (i ≠ j ∨ (ctxWriteError i v).isSome = true → (s.ctxWrite i v).ctxRead j = s.ctxRead j)

/-- 45_context_control.md R178: a window write stores the region's valid bit with its word, starts no command (R179), and changes no
register of the aperture. -/
def Obligations.WindowWriteFrame : Prop :=
  ∀ (s : State) (i : Byte) (v : Word),
    (0x10 ≤ i.toNat → i.toNat ≤ 0x29 → (s.ctxWrite i v).keysValid = true) ∧
    (0x40 ≤ i.toNat → i.toNat < 0x80 → (s.ctxWrite i v).t1Valid = true) ∧
    (0x80 ≤ i.toNat → i.toNat < 0xC0 → (s.ctxWrite i v).t2Valid = true) ∧
    (0xC0 ≤ i.toNat → (s.ctxWrite i v).t3Valid = true) ∧
    ∃ (e : Bool) (c : BitVec 4) (vk v1 v2 v3 : Bool) (cl ch mn mj : Word) (o : Byte) (rk : KeyFile) (a b d : Table),
      s.ctxWrite i v = { s with
        err := e, errCode := c, keysValid := vk, t1Valid := v1, t2Valid := v2, t3Valid := v3
        ctrLo := cl, ctrHi := ch, evoMinor := mn, evoMajor := mj, rkOffset := o, rk := rk, t1 := a, t2 := b, t3 := d }

/-- 45_context_control.md R181: importing the 223 words exported from a context, in any order, makes the target's context fields, round
keys and tables equal to the source's and sets every valid bit, records no error, and changes no other register of the target;
every exported word passes the write checks because the source's ranges hold. `importWords` applies `CtxWrite` directly, where R181's
`ctxwr` writes `CTX_INDEX` too. The target's valid bits equal the source's, as R181 says, only when all four of the source's are set;
otherwise setting them is the model's choice, after R178 (log entry 24). -/
def Obligations.ImportCopiesTheContext : Prop :=
  ∀ (s t : State) (order : List Byte), t.rkOffset.toNat < 18 → t.evoMinor.toNat < 2000 → order.Perm contextIndices →
    s.importWords t order = s.withContextOf t

/-! ## Rules of the whole machine -/

/-- 10_state.md R45: after hardware reset, from any state, every piece of state holds the rule's value. -/
def Obligations.HardwareResetValues : Prop :=
  ∀ (s : State) (n : Nat), (∃ rest, s.sched = .reset n :: rest) → ∃ t : State, step s = .next t ∧
    t.busy = false ∧ t.cmd = 0 ∧ t.statusWord = 0 ∧ t.err = false ∧ t.errCode = 0 ∧
    t.key0 = 0 ∧ t.key1 = 0 ∧ t.key2 = 0 ∧ t.seed0 = 0 ∧ t.seed1 = 0 ∧ t.seed2 = 0 ∧
    t.din0 = 0 ∧ t.din1 = 0 ∧ t.dout0 = 0 ∧ t.dout1 = 0 ∧
    t.pidxLo = 0 ∧ t.pidxHi = 0 ∧ t.psizeLo = 0 ∧ t.psizeHi = 0 ∧ t.boffLo = 0 ∧ t.boffHi = 0 ∧ t.ctxIndex = 0 ∧
    t.ctrLo = 0 ∧ t.ctrHi = 0 ∧ t.evoMinor = 0 ∧ t.evoMajor = 0 ∧ t.rkOffset = 0 ∧
    (∀ i : Fin 26, t.rk[i] = 0) ∧
    (∀ x : Byte, lookup t.t1 x = x ∧ lookup t.t2 x = x ∧ lookup t.t3 x = x) ∧
    t.keysValid = false ∧ t.t1Valid = false ∧ t.t2Valid = false ∧ t.t3Valid = false

/-- 10_state.md R43; 60_exceptions.md R201, R206, R207: every step from a state with the invariant that answers a next state answers
one with the invariant. -/
def Obligations.StepKeepsTheInvariant : Prop :=
  ∀ s t : State, s.Inv → step s = .next t → t.Inv

/-- 10_state.md R43: the state after reset has the invariant, its evolution counters are in step and its tables are permutations. -/
def Obligations.ResetHasTheInvariant : Prop :=
  State.reset.Inv ∧ State.reset.evolutionInStep ∧ State.reset.tablesArePermutations

/-- 60_exceptions.md R207, R214: from a state with the invariant no step is refused (the command in flight is always legal and every
command completes; the refusal ruled out is the model's own, log entry 9); the only fault is the bus error of a host's own access. -/
def Obligations.InvariantStepIsNeverRefused : Prop :=
  ∀ s : State, s.Inv →
    (∃ t : State, step s = .next t) ∨
      ∃ (off : Nat) (width : AccessWidth), step s = .fault (.busError off width) ∧ s.turn = some .host

/-- 10_state.md R43: a step that is no window write to `EVO_MINOR` or `EVO_MAJOR` keeps `EVO_MAJOR < 4000000` and
`EVO_MAJOR mod 2000 = EVO_MINOR`. -/
def Obligations.EvolutionCountersStayInStep : Prop :=
  ∀ s t : State, s.evolutionInStep → ¬ s.isWindowWrite (fun i => i = 0x02 ∨ i = 0x03) → step s = .next t →
    t.evolutionInStep

/-- 10_state.md R42: a step that is no window write into a table keeps every table a permutation. -/
def Obligations.TablesStayPermutations : Prop :=
  ∀ s t : State, s.tablesArePermutations → ¬ s.isWindowWrite (fun i => 0x40 ≤ i.toNat) → step s = .next t →
    t.tablesArePermutations

/-- 10_state.md R25: `STATUS.BUSY` reads `eng.busy`; only a host write to `CMD` of a command that is accepted sets it, and only a
completion or hardware reset clears it. -/
def Obligations.OnlyAcceptanceSetsBusy : Prop :=
  ∀ s t : State, step s = .next t →
    s.statusWord.getLsbD 0 = s.busy ∧
    (s.busy = false → t.busy = true →
      ∃ i : Instr, s.isWriteTo .cmd (encode i) ∧ (isCipher i = true → s.allValid = true) ∧ t.cmd = encode i) ∧
    (s.busy = true → t.busy = false → s.isReset ∨ ∃ i : Instr, s.isCompletionOf i)

/-- 10_state.md R26: a step changes `ERR` or `ERRCODE` only by recording an error (`ERR` was 0 and becomes 1, with the code of an
error kind), by a host write to `STATUS` with bit 1 set (both become 0), or by hardware reset; a write to `STATUS` is taken while a
command is in flight too, and changes nothing else. -/
def Obligations.OnlyTheRecordAndItsClearChangeTheError : Prop :=
  (∀ s t : State, step s = .next t → t.err ≠ s.err ∨ t.errCode ≠ s.errCode →
    (s.err = false ∧ t.err = true ∧ (∃ e : ErrorKind, t.errCode = e.code) ∧ s.turn = some .host) ∨
    (t.err = false ∧ t.errCode = 0 ∧ ∃ v : Word, v.getLsbD 1 = true ∧ s.isWriteTo .status v) ∨ s.isReset) ∧
  ∀ (s : State) (v : Word), s.isWriteTo .status v →
    step s = .next { s with
      err := s.err && !v.getLsbD 1, errCode := if v.getLsbD 1 then 0 else s.errCode
      host := s.host.tail, sched := s.sched.tail, resp := .done }

/-- 10_state.md R27: each valid bit is set only by the completion of its command or by a window write into its region, is cleared only
by hardware reset, and a cipher command is accepted only when all four are 1. -/
def Obligations.ValidBitsAreSetAndClearedAsStated : Prop :=
  ∀ s t : State, step s = .next t →
    (s.keysValid = false → t.keysValid = true →
      s.isCompletionOf .keyExpand ∨ s.isWindowWrite fun i => 0x10 ≤ i.toNat ∧ i.toNat ≤ 0x29) ∧
    (s.t1Valid = false → t.t1Valid = true →
      s.isCompletionOf .genTable1 ∨ s.isWindowWrite fun i => 0x40 ≤ i.toNat ∧ i.toNat < 0x80) ∧
    (s.t2Valid = false → t.t2Valid = true →
      s.isCompletionOf .genTable2 ∨ s.isWindowWrite fun i => 0x80 ≤ i.toNat ∧ i.toNat < 0xC0) ∧
    (s.t3Valid = false → t.t3Valid = true →
      s.isCompletionOf .genTable3 ∨ s.isWindowWrite fun i => 0xC0 ≤ i.toNat) ∧
    (s.isCompletionOf .keyExpand ∨ s.isWindowWrite (fun i => 0x10 ≤ i.toNat ∧ i.toNat ≤ 0x29) → t.keysValid = true) ∧
    (s.isCompletionOf .genTable1 ∨ s.isWindowWrite (fun i => 0x40 ≤ i.toNat ∧ i.toNat < 0x80) → t.t1Valid = true) ∧
    (s.isCompletionOf .genTable2 ∨ s.isWindowWrite (fun i => 0x80 ≤ i.toNat ∧ i.toNat < 0xC0) → t.t2Valid = true) ∧
    (s.isCompletionOf .genTable3 ∨ s.isWindowWrite (fun i => 0xC0 ≤ i.toNat) → t.t3Valid = true) ∧
    (¬ s.isReset →
      (s.keysValid = true → t.keysValid = true) ∧ (s.t1Valid = true → t.t1Valid = true) ∧
      (s.t2Valid = true → t.t2Valid = true) ∧ (s.t3Valid = true → t.t3Valid = true)) ∧
    (s.busy = false → t.busy = true → t.cmd = encode .encCtr ∨ t.cmd = encode .encPos →
      s.keysValid = true ∧ s.t1Valid = true ∧ s.t2Valid = true ∧ s.t3Valid = true)

/-- 10_state.md R40, R41; 42_key_schedule.md R134: only `KEY_EXPAND`, a window write into the round-key region and hardware reset
change a round key; only `GEN_TABLE 3`, a window write into its region and hardware reset change Table3. -/
def Obligations.RoundKeysAndTableThreeAreWrittenOnlySo : Prop :=
  ∀ s t : State, step s = .next t →
    (t.rk ≠ s.rk →
      s.isReset ∨ s.isCompletionOf .keyExpand ∨ s.isWindowWrite fun i => 0x10 ≤ i.toNat ∧ i.toNat ≤ 0x29) ∧
    (t.t3 ≠ s.t3 → s.isReset ∨ s.isCompletionOf .genTable3 ∨ s.isWindowWrite fun i => 0xC0 ≤ i.toNat)

/-- 10_state.md R31, R32: only the completion of a cipher command and hardware reset change `DOUT0` or `DOUT1`; only a host write to
it and hardware reset change `DIN0` or `DIN1`. -/
def Obligations.OutputsAndInputsAreWrittenOnlySo : Prop :=
  ∀ s t : State, step s = .next t →
    (t.dout0 ≠ s.dout0 ∨ t.dout1 ≠ s.dout1 → s.isReset ∨ s.isCompletionOf .encCtr ∨ s.isCompletionOf .encPos) ∧
    (t.din0 ≠ s.din0 → s.isReset ∨ (s.busy = false ∧ s.isWriteTo .din0 t.din0)) ∧
    (t.din1 ≠ s.din1 → s.isReset ∨ (s.busy = false ∧ s.isWriteTo .din1 t.din1))

/-- 60_exceptions.md R206, R207; 20_memory.md R57; 70_reset_and_hazards.md R250: what a host does while a command is in flight cannot
change the command's result. After any host step the same command is still in flight, and completing it then gives the same
registers and context as completing it before that step. -/
def Obligations.ResultDoesNotDependOnTiming : Prop :=
  ∀ (s t : State) (i : Instr), s.busy = true → s.inFlight = .ok i → s.turn = some .host → step s = .next t →
    t.busy = true ∧ t.inFlight = .ok i ∧
      ∃ u v : State, exec i s = .next u ∧ exec i t = .next v ∧ v.withRecordOf u = u

/-- 60_exceptions.md R206: an accepted command always completes, unless hardware reset abandons it. From a state with the invariant,
after at most one step more than the schedule holds, no command is in flight, or the host's own access has met a bus
error. The bound by the schedule's length is the model's own (log entry 1). -/
def Obligations.AcceptedCommandCompletes : Prop :=
  ∀ s : State, s.Inv → s.busy = true → ∃ n ≤ s.sched.length + 1,
    (∃ t : State, Sys2Proof.core.run n s = .next t ∧ t.busy = false) ∨
      ∃ (off : Nat) (width : AccessWidth), Sys2Proof.core.run n s = .fault (.busError off width)
end

