-- ==== Sys2Proof/Laws/Datapath.lean ====
section
/-! SUPPORT. The small lemmas of the datapath functions: bytes and halves of words, table lookup, the round sequence, the loops of
the two generators. Later proofs cite these and unfold none of the definitions. -/

namespace Sys2Proof.Machine

/-! ### Bytes and halves -/

theorem getLsbD_byteOf (w : Word) (k i : Nat) : (byteOf w k).getLsbD i = (decide (i < 8) && w.getLsbD (8 * k + i)) := by
  simp [byteOf, BitVec.getLsbD_extractLsb']

theorem getLsbD_wordOf (b3 b2 b1 b0 : Byte) (i : Nat) :
    (wordOf b3 b2 b1 b0).getLsbD i =
      if i < 8 then b0.getLsbD i else if i < 16 then b1.getLsbD (i - 8) else if i < 24 then b2.getLsbD (i - 16)
      else b3.getLsbD (i - 24) := by
  simp only [wordOf, BitVec.getLsbD_cast, BitVec.getLsbD_append]
  by_cases h0 : i < 8
  · simp [h0]
  · by_cases h1 : i < 16
    · simp [h0, h1, show i - 8 < 8 by omega]
    · by_cases h2 : i < 24
      · simp [h0, h1, h2, show ¬ i - 8 < 8 by omega, show i - 8 - 8 = i - 16 by omega, show i - 16 < 8 by omega]
      · simp [h0, h1, h2, show ¬ i - 8 < 8 by omega, show ¬ i - 8 - 8 < 8 by omega, show i - 8 - 8 - 8 = i - 24 by omega]

theorem getLsbD_joinWords (hi lo : Word) (i : Nat) :
    (joinWords hi lo).getLsbD i = if i < 32 then lo.getLsbD i else hi.getLsbD (i - 32) := by
  simp only [joinWords, BitVec.getLsbD_cast, BitVec.getLsbD_append]

@[simp] theorem byteOf_wordOf_0 (a b c d : Byte) : byteOf (wordOf a b c d) 0 = d := by
  apply BitVec.eq_of_getLsbD_eq; intro i hi
  rw [getLsbD_byteOf, getLsbD_wordOf]; simp [hi]

@[simp] theorem byteOf_wordOf_1 (a b c d : Byte) : byteOf (wordOf a b c d) 1 = c := by
  apply BitVec.eq_of_getLsbD_eq; intro i hi
  rw [getLsbD_byteOf, getLsbD_wordOf]; simp [hi, show 8 + i < 16 by omega]

@[simp] theorem byteOf_wordOf_2 (a b c d : Byte) : byteOf (wordOf a b c d) 2 = b := by
  apply BitVec.eq_of_getLsbD_eq; intro i hi
  rw [getLsbD_byteOf, getLsbD_wordOf]; simp [hi, show ¬ 16 + i < 8 by omega, show 16 + i < 24 by omega]

@[simp] theorem byteOf_wordOf_3 (a b c d : Byte) : byteOf (wordOf a b c d) 3 = a := by
  apply BitVec.eq_of_getLsbD_eq; intro i hi
  rw [getLsbD_byteOf, getLsbD_wordOf]; simp [hi, show ¬ 24 + i < 8 by omega, show ¬ 24 + i < 16 by omega]

/-- A word is its four bytes. -/
@[simp] theorem wordOf_byteOf (w : Word) : wordOf (byteOf w 3) (byteOf w 2) (byteOf w 1) (byteOf w 0) = w := by
  apply BitVec.eq_of_getLsbD_eq; intro i hi
  simp only [getLsbD_byteOf, getLsbD_wordOf]
  split
  · simp [*]
  split
  · simp [show i - 8 < 8 by omega, show 8 + (i - 8) = i by omega]
  split
  · simp [show i - 16 < 8 by omega, show 16 + (i - 16) = i by omega]
  · simp [show i - 24 < 8 by omega, show 24 + (i - 24) = i by omega]

@[simp] theorem lowWord_joinWords (hi lo : Word) : lowWord (joinWords hi lo) = lo := by
  apply BitVec.eq_of_getLsbD_eq; intro i h
  simp [lowWord, getLsbD_joinWords, h]

@[simp] theorem highWord_joinWords (hi lo : Word) : highWord (joinWords hi lo) = hi := by
  apply BitVec.eq_of_getLsbD_eq; intro i h
  simp [highWord, getLsbD_joinWords, h]

/-- A 64-bit quantity is its two halves. -/
@[simp] theorem joinWords_halves (d : DWord) : joinWords (highWord d) (lowWord d) = d := by
  apply BitVec.eq_of_getLsbD_eq; intro i h
  simp only [getLsbD_joinWords, lowWord, highWord, BitVec.getLsbD_extractLsb']
  split
  · simp [*]
  · simp [show i - 32 < 32 by omega, show 32 + (i - 32) = i by omega]

/-- The integer a pair of halves stands for. -/
theorem joinWords_toNat (hi lo : Word) : (joinWords hi lo).toNat = hi.toNat * 2 ^ 32 + lo.toNat := by
  have h := lo.isLt
  simp only [joinWords, BitVec.toNat_cast, BitVec.toNat_append]
  rw [Nat.shiftLeft_eq, Nat.mul_comm, ← Nat.two_pow_add_eq_or_of_lt h]

/-! ### Tables -/

/-- Two tables with equal entries are equal. -/
theorem table_ext {A B : Table} (h : ∀ x : Byte, lookup A x = lookup B x) : A = B := by
  apply Vector.ext; intro i hi
  have := h (BitVec.ofNat 8 i)
  simpa [lookup, Nat.mod_eq_of_lt hi] using this

/-- The entry at a natural index, as a lookup. -/
theorem getElem_eq_lookup (T : Table) (i : Nat) (h : i < 256) : T[i] = lookup T (BitVec.ofNat 8 i) := by
  simp [lookup, Nat.mod_eq_of_lt h]

@[simp] theorem lookup_identityTable (x : Byte) : lookup identityTable x = x := by
  simp [lookup, identityTable]

/-- `putEntry` writes its entry and no other. -/
theorem lookup_putEntry (T : Table) (x v y : Byte) : lookup (putEntry T x v) y = if x = y then v else lookup T y := by
  simp only [lookup, putEntry, Vector.getElem_set]
  by_cases h : x = y
  · simp [h]
  · simp [h, mt BitVec.eq_of_toNat_eq h]

@[simp] theorem lookup_compose (A B : Table) (x : Byte) : lookup (compose A B) x = lookup A (lookup B x) := by
  simp [lookup, compose]

/-! ### The rounds and the loops -/

@[simp] theorem rounds_zero (rk : KeyFile) (x y : Word) (first : Nat) : rounds rk x y first 0 = (x, y) := rfl

/-- The last round is one ARX round with the last round key. -/
theorem rounds_succ (rk : KeyFile) (x y : Word) (first n : Nat) :
    rounds rk x y first (n + 1) =
      arx (rounds rk x y first n).1 (rounds rk x y first n).2 (roundKey rk (first + n)) := by
  simp [rounds, List.range_succ]

theorem roundKey_of_lt (rk : KeyFile) {i : Nat} (h : i < 26) : roundKey rk i = rk[i] := by simp [roundKey, h]

@[simp] theorem permGenSteps_zero (seed : Seed) : permGenSteps seed 0 = (identityTable, 0) := rfl

/-- The generator's next step. -/
theorem permGenSteps_succ (seed : Seed) (n : Nat) :
    permGenSteps seed (n + 1) = permGenStep seed (permGenSteps seed n) n := by
  simp [permGenSteps, List.range_succ]

@[simp] theorem keyExpand_getElem (A B C : Word) (i : Nat) (h : i < 26) : (keyExpand A B C)[i] = (keyState A B C i).1 := by
  simp [keyExpand]

end Sys2Proof.Machine
end

