-- ==== Sys2Proof/Laws/Decode.lean ====
section
/-! SUPPORT. The fields of a command word determine it (30_encoding.md R81), and what the decoder's answers say of them. -/

namespace Sys2Proof

/-- A word is its three fields: two words with equal `OP`, `TSEL` and `RSV` are equal. -/
theorem word_eq_of_fields {w w' : Word} (ho : opField w = opField w') (ht : tselField w = tselField w')
    (hr : rsvField w = rsvField w') : w = w' := by
  apply BitVec.eq_of_getLsbD_eq; intro i hi
  by_cases h8 : i < 8
  · simpa [opField, h8] using congrArg (·.getLsbD i) ho
  by_cases h10 : i < 10
  · simpa [tselField, show i - 8 < 2 by omega, show 8 + (i - 8) = i by omega] using congrArg (·.getLsbD (i - 8)) ht
  · simpa [rsvField, show i - 10 < 22 by omega, show 10 + (i - 10) = i by omega] using congrArg (·.getLsbD (i - 10)) hr

/-- What a decoded word's fields are, command by command. -/
theorem fields_of_decode {w : Word} {i : Instr} (h : decode w = .ok i) :
    opField w = i.op ∧ tselField w = i.tsel ∧ rsvField w = 0 := by
  unfold decode at h
  split at h
  · cases h
  rename_i hr
  have hr : rsvField w = 0 := by simpa using hr
  split at h
  · rename_i ho
    split at h
    · cases h
    rename_i h0
    split at h
    · rename_i ht; cases h; exact ⟨ho, ht, hr⟩
    split at h
    · rename_i ht; cases h; exact ⟨ho, ht, hr⟩
    · rename_i h1 h2; cases h
      refine ⟨ho, ?_, hr⟩
      revert h0 h1 h2; generalize tselField w = t; revert t; decide
  · split at h
    · cases h
    rename_i ht
    have ht : tselField w = 0 := by simpa using ht
    split at h
    · rename_i ho; cases h; exact ⟨ho, ht, hr⟩
    split at h
    · rename_i ho; cases h; exact ⟨ho, ht, hr⟩
    split at h
    · rename_i ho; cases h; exact ⟨ho, ht, hr⟩
    split at h
    · rename_i ho; cases h; exact ⟨ho, ht, hr⟩
    split at h
    · rename_i ho; cases h; exact ⟨ho, ht, hr⟩
    · cases h

end Sys2Proof
end

