-- ==== Sys2Proof/Laws/State.lean ====
section
/-! SUPPORT. What each named update of the state leaves in each field: one lemma per field per update, true by rfl, for simp. No
later proof unfolds a record update. -/

namespace Sys2Proof.Machine

/-! ### `State.raise`: `raise E`: the error record and nothing else (60_exceptions.md R202, R203) -/

@[simp] theorem State.raise_busy (s : State) (e : ErrorKind) : (s.raise e).busy = s.busy := rfl
@[simp] theorem State.raise_cmd (s : State) (e : ErrorKind) : (s.raise e).cmd = s.cmd := rfl
@[simp] theorem State.raise_err (s : State) (e : ErrorKind) : (s.raise e).err = true := rfl
@[simp] theorem State.raise_errCode (s : State) (e : ErrorKind) : (s.raise e).errCode = if s.err then s.errCode else e.code := rfl
@[simp] theorem State.raise_keysValid (s : State) (e : ErrorKind) : (s.raise e).keysValid = s.keysValid := rfl
@[simp] theorem State.raise_t1Valid (s : State) (e : ErrorKind) : (s.raise e).t1Valid = s.t1Valid := rfl
@[simp] theorem State.raise_t2Valid (s : State) (e : ErrorKind) : (s.raise e).t2Valid = s.t2Valid := rfl
@[simp] theorem State.raise_t3Valid (s : State) (e : ErrorKind) : (s.raise e).t3Valid = s.t3Valid := rfl
@[simp] theorem State.raise_key0 (s : State) (e : ErrorKind) : (s.raise e).key0 = s.key0 := rfl
@[simp] theorem State.raise_key1 (s : State) (e : ErrorKind) : (s.raise e).key1 = s.key1 := rfl
@[simp] theorem State.raise_key2 (s : State) (e : ErrorKind) : (s.raise e).key2 = s.key2 := rfl
@[simp] theorem State.raise_seed0 (s : State) (e : ErrorKind) : (s.raise e).seed0 = s.seed0 := rfl
@[simp] theorem State.raise_seed1 (s : State) (e : ErrorKind) : (s.raise e).seed1 = s.seed1 := rfl
@[simp] theorem State.raise_seed2 (s : State) (e : ErrorKind) : (s.raise e).seed2 = s.seed2 := rfl
@[simp] theorem State.raise_din0 (s : State) (e : ErrorKind) : (s.raise e).din0 = s.din0 := rfl
@[simp] theorem State.raise_din1 (s : State) (e : ErrorKind) : (s.raise e).din1 = s.din1 := rfl
@[simp] theorem State.raise_dout0 (s : State) (e : ErrorKind) : (s.raise e).dout0 = s.dout0 := rfl
@[simp] theorem State.raise_dout1 (s : State) (e : ErrorKind) : (s.raise e).dout1 = s.dout1 := rfl
@[simp] theorem State.raise_pidxLo (s : State) (e : ErrorKind) : (s.raise e).pidxLo = s.pidxLo := rfl
@[simp] theorem State.raise_pidxHi (s : State) (e : ErrorKind) : (s.raise e).pidxHi = s.pidxHi := rfl
@[simp] theorem State.raise_psizeLo (s : State) (e : ErrorKind) : (s.raise e).psizeLo = s.psizeLo := rfl
@[simp] theorem State.raise_psizeHi (s : State) (e : ErrorKind) : (s.raise e).psizeHi = s.psizeHi := rfl
@[simp] theorem State.raise_boffLo (s : State) (e : ErrorKind) : (s.raise e).boffLo = s.boffLo := rfl
@[simp] theorem State.raise_boffHi (s : State) (e : ErrorKind) : (s.raise e).boffHi = s.boffHi := rfl
@[simp] theorem State.raise_ctxIndex (s : State) (e : ErrorKind) : (s.raise e).ctxIndex = s.ctxIndex := rfl
@[simp] theorem State.raise_ctrLo (s : State) (e : ErrorKind) : (s.raise e).ctrLo = s.ctrLo := rfl
@[simp] theorem State.raise_ctrHi (s : State) (e : ErrorKind) : (s.raise e).ctrHi = s.ctrHi := rfl
@[simp] theorem State.raise_evoMinor (s : State) (e : ErrorKind) : (s.raise e).evoMinor = s.evoMinor := rfl
@[simp] theorem State.raise_evoMajor (s : State) (e : ErrorKind) : (s.raise e).evoMajor = s.evoMajor := rfl
@[simp] theorem State.raise_rkOffset (s : State) (e : ErrorKind) : (s.raise e).rkOffset = s.rkOffset := rfl
@[simp] theorem State.raise_rk (s : State) (e : ErrorKind) : (s.raise e).rk = s.rk := rfl
@[simp] theorem State.raise_t1 (s : State) (e : ErrorKind) : (s.raise e).t1 = s.t1 := rfl
@[simp] theorem State.raise_t2 (s : State) (e : ErrorKind) : (s.raise e).t2 = s.t2 := rfl
@[simp] theorem State.raise_t3 (s : State) (e : ErrorKind) : (s.raise e).t3 = s.t3 := rfl
@[simp] theorem State.raise_host (s : State) (e : ErrorKind) : (s.raise e).host = s.host := rfl
@[simp] theorem State.raise_sched (s : State) (e : ErrorKind) : (s.raise e).sched = s.sched := rfl
@[simp] theorem State.raise_resp (s : State) (e : ErrorKind) : (s.raise e).resp = s.resp := rfl
@[simp] theorem State.raise_draws (s : State) (e : ErrorKind) : (s.raise e).draws = s.draws := rfl

/-! ### `State.clearError`: a write to `STATUS` with bit 1 set (10_state.md R26) -/

@[simp] theorem State.clearError_busy (s : State) : (s.clearError).busy = s.busy := rfl
@[simp] theorem State.clearError_cmd (s : State) : (s.clearError).cmd = s.cmd := rfl
@[simp] theorem State.clearError_err (s : State) : (s.clearError).err = false := rfl
@[simp] theorem State.clearError_errCode (s : State) : (s.clearError).errCode = 0 := rfl
@[simp] theorem State.clearError_keysValid (s : State) : (s.clearError).keysValid = s.keysValid := rfl
@[simp] theorem State.clearError_t1Valid (s : State) : (s.clearError).t1Valid = s.t1Valid := rfl
@[simp] theorem State.clearError_t2Valid (s : State) : (s.clearError).t2Valid = s.t2Valid := rfl
@[simp] theorem State.clearError_t3Valid (s : State) : (s.clearError).t3Valid = s.t3Valid := rfl
@[simp] theorem State.clearError_key0 (s : State) : (s.clearError).key0 = s.key0 := rfl
@[simp] theorem State.clearError_key1 (s : State) : (s.clearError).key1 = s.key1 := rfl
@[simp] theorem State.clearError_key2 (s : State) : (s.clearError).key2 = s.key2 := rfl
@[simp] theorem State.clearError_seed0 (s : State) : (s.clearError).seed0 = s.seed0 := rfl
@[simp] theorem State.clearError_seed1 (s : State) : (s.clearError).seed1 = s.seed1 := rfl
@[simp] theorem State.clearError_seed2 (s : State) : (s.clearError).seed2 = s.seed2 := rfl
@[simp] theorem State.clearError_din0 (s : State) : (s.clearError).din0 = s.din0 := rfl
@[simp] theorem State.clearError_din1 (s : State) : (s.clearError).din1 = s.din1 := rfl
@[simp] theorem State.clearError_dout0 (s : State) : (s.clearError).dout0 = s.dout0 := rfl
@[simp] theorem State.clearError_dout1 (s : State) : (s.clearError).dout1 = s.dout1 := rfl
@[simp] theorem State.clearError_pidxLo (s : State) : (s.clearError).pidxLo = s.pidxLo := rfl
@[simp] theorem State.clearError_pidxHi (s : State) : (s.clearError).pidxHi = s.pidxHi := rfl
@[simp] theorem State.clearError_psizeLo (s : State) : (s.clearError).psizeLo = s.psizeLo := rfl
@[simp] theorem State.clearError_psizeHi (s : State) : (s.clearError).psizeHi = s.psizeHi := rfl
@[simp] theorem State.clearError_boffLo (s : State) : (s.clearError).boffLo = s.boffLo := rfl
@[simp] theorem State.clearError_boffHi (s : State) : (s.clearError).boffHi = s.boffHi := rfl
@[simp] theorem State.clearError_ctxIndex (s : State) : (s.clearError).ctxIndex = s.ctxIndex := rfl
@[simp] theorem State.clearError_ctrLo (s : State) : (s.clearError).ctrLo = s.ctrLo := rfl
@[simp] theorem State.clearError_ctrHi (s : State) : (s.clearError).ctrHi = s.ctrHi := rfl
@[simp] theorem State.clearError_evoMinor (s : State) : (s.clearError).evoMinor = s.evoMinor := rfl
@[simp] theorem State.clearError_evoMajor (s : State) : (s.clearError).evoMajor = s.evoMajor := rfl
@[simp] theorem State.clearError_rkOffset (s : State) : (s.clearError).rkOffset = s.rkOffset := rfl
@[simp] theorem State.clearError_rk (s : State) : (s.clearError).rk = s.rk := rfl
@[simp] theorem State.clearError_t1 (s : State) : (s.clearError).t1 = s.t1 := rfl
@[simp] theorem State.clearError_t2 (s : State) : (s.clearError).t2 = s.t2 := rfl
@[simp] theorem State.clearError_t3 (s : State) : (s.clearError).t3 = s.t3 := rfl
@[simp] theorem State.clearError_host (s : State) : (s.clearError).host = s.host := rfl
@[simp] theorem State.clearError_sched (s : State) : (s.clearError).sched = s.sched := rfl
@[simp] theorem State.clearError_resp (s : State) : (s.clearError).resp = s.resp := rfl
@[simp] theorem State.clearError_draws (s : State) : (s.clearError).draws = s.draws := rfl

/-! ### `State.finish`: `eng.busy <- 0` (60_exceptions.md R207) -/

@[simp] theorem State.finish_busy (s : State) : (s.finish).busy = false := rfl
@[simp] theorem State.finish_cmd (s : State) : (s.finish).cmd = s.cmd := rfl
@[simp] theorem State.finish_err (s : State) : (s.finish).err = s.err := rfl
@[simp] theorem State.finish_errCode (s : State) : (s.finish).errCode = s.errCode := rfl
@[simp] theorem State.finish_keysValid (s : State) : (s.finish).keysValid = s.keysValid := rfl
@[simp] theorem State.finish_t1Valid (s : State) : (s.finish).t1Valid = s.t1Valid := rfl
@[simp] theorem State.finish_t2Valid (s : State) : (s.finish).t2Valid = s.t2Valid := rfl
@[simp] theorem State.finish_t3Valid (s : State) : (s.finish).t3Valid = s.t3Valid := rfl
@[simp] theorem State.finish_key0 (s : State) : (s.finish).key0 = s.key0 := rfl
@[simp] theorem State.finish_key1 (s : State) : (s.finish).key1 = s.key1 := rfl
@[simp] theorem State.finish_key2 (s : State) : (s.finish).key2 = s.key2 := rfl
@[simp] theorem State.finish_seed0 (s : State) : (s.finish).seed0 = s.seed0 := rfl
@[simp] theorem State.finish_seed1 (s : State) : (s.finish).seed1 = s.seed1 := rfl
@[simp] theorem State.finish_seed2 (s : State) : (s.finish).seed2 = s.seed2 := rfl
@[simp] theorem State.finish_din0 (s : State) : (s.finish).din0 = s.din0 := rfl
@[simp] theorem State.finish_din1 (s : State) : (s.finish).din1 = s.din1 := rfl
@[simp] theorem State.finish_dout0 (s : State) : (s.finish).dout0 = s.dout0 := rfl
@[simp] theorem State.finish_dout1 (s : State) : (s.finish).dout1 = s.dout1 := rfl
@[simp] theorem State.finish_pidxLo (s : State) : (s.finish).pidxLo = s.pidxLo := rfl
@[simp] theorem State.finish_pidxHi (s : State) : (s.finish).pidxHi = s.pidxHi := rfl
@[simp] theorem State.finish_psizeLo (s : State) : (s.finish).psizeLo = s.psizeLo := rfl
@[simp] theorem State.finish_psizeHi (s : State) : (s.finish).psizeHi = s.psizeHi := rfl
@[simp] theorem State.finish_boffLo (s : State) : (s.finish).boffLo = s.boffLo := rfl
@[simp] theorem State.finish_boffHi (s : State) : (s.finish).boffHi = s.boffHi := rfl
@[simp] theorem State.finish_ctxIndex (s : State) : (s.finish).ctxIndex = s.ctxIndex := rfl
@[simp] theorem State.finish_ctrLo (s : State) : (s.finish).ctrLo = s.ctrLo := rfl
@[simp] theorem State.finish_ctrHi (s : State) : (s.finish).ctrHi = s.ctrHi := rfl
@[simp] theorem State.finish_evoMinor (s : State) : (s.finish).evoMinor = s.evoMinor := rfl
@[simp] theorem State.finish_evoMajor (s : State) : (s.finish).evoMajor = s.evoMajor := rfl
@[simp] theorem State.finish_rkOffset (s : State) : (s.finish).rkOffset = s.rkOffset := rfl
@[simp] theorem State.finish_rk (s : State) : (s.finish).rk = s.rk := rfl
@[simp] theorem State.finish_t1 (s : State) : (s.finish).t1 = s.t1 := rfl
@[simp] theorem State.finish_t2 (s : State) : (s.finish).t2 = s.t2 := rfl
@[simp] theorem State.finish_t3 (s : State) : (s.finish).t3 = s.t3 := rfl
@[simp] theorem State.finish_host (s : State) : (s.finish).host = s.host := rfl
@[simp] theorem State.finish_sched (s : State) : (s.finish).sched = s.sched := rfl
@[simp] theorem State.finish_resp (s : State) : (s.finish).resp = s.resp := rfl
@[simp] theorem State.finish_draws (s : State) : (s.finish).draws = s.draws := rfl

/-! ### `State.start`: acceptance (60_exceptions.md R206) -/

@[simp] theorem State.start_busy (s : State) (v : Word) : (s.start v).busy = true := rfl
@[simp] theorem State.start_cmd (s : State) (v : Word) : (s.start v).cmd = v := rfl
@[simp] theorem State.start_err (s : State) (v : Word) : (s.start v).err = s.err := rfl
@[simp] theorem State.start_errCode (s : State) (v : Word) : (s.start v).errCode = s.errCode := rfl
@[simp] theorem State.start_keysValid (s : State) (v : Word) : (s.start v).keysValid = s.keysValid := rfl
@[simp] theorem State.start_t1Valid (s : State) (v : Word) : (s.start v).t1Valid = s.t1Valid := rfl
@[simp] theorem State.start_t2Valid (s : State) (v : Word) : (s.start v).t2Valid = s.t2Valid := rfl
@[simp] theorem State.start_t3Valid (s : State) (v : Word) : (s.start v).t3Valid = s.t3Valid := rfl
@[simp] theorem State.start_key0 (s : State) (v : Word) : (s.start v).key0 = s.key0 := rfl
@[simp] theorem State.start_key1 (s : State) (v : Word) : (s.start v).key1 = s.key1 := rfl
@[simp] theorem State.start_key2 (s : State) (v : Word) : (s.start v).key2 = s.key2 := rfl
@[simp] theorem State.start_seed0 (s : State) (v : Word) : (s.start v).seed0 = s.seed0 := rfl
@[simp] theorem State.start_seed1 (s : State) (v : Word) : (s.start v).seed1 = s.seed1 := rfl
@[simp] theorem State.start_seed2 (s : State) (v : Word) : (s.start v).seed2 = s.seed2 := rfl
@[simp] theorem State.start_din0 (s : State) (v : Word) : (s.start v).din0 = s.din0 := rfl
@[simp] theorem State.start_din1 (s : State) (v : Word) : (s.start v).din1 = s.din1 := rfl
@[simp] theorem State.start_dout0 (s : State) (v : Word) : (s.start v).dout0 = s.dout0 := rfl
@[simp] theorem State.start_dout1 (s : State) (v : Word) : (s.start v).dout1 = s.dout1 := rfl
@[simp] theorem State.start_pidxLo (s : State) (v : Word) : (s.start v).pidxLo = s.pidxLo := rfl
@[simp] theorem State.start_pidxHi (s : State) (v : Word) : (s.start v).pidxHi = s.pidxHi := rfl
@[simp] theorem State.start_psizeLo (s : State) (v : Word) : (s.start v).psizeLo = s.psizeLo := rfl
@[simp] theorem State.start_psizeHi (s : State) (v : Word) : (s.start v).psizeHi = s.psizeHi := rfl
@[simp] theorem State.start_boffLo (s : State) (v : Word) : (s.start v).boffLo = s.boffLo := rfl
@[simp] theorem State.start_boffHi (s : State) (v : Word) : (s.start v).boffHi = s.boffHi := rfl
@[simp] theorem State.start_ctxIndex (s : State) (v : Word) : (s.start v).ctxIndex = s.ctxIndex := rfl
@[simp] theorem State.start_ctrLo (s : State) (v : Word) : (s.start v).ctrLo = s.ctrLo := rfl
@[simp] theorem State.start_ctrHi (s : State) (v : Word) : (s.start v).ctrHi = s.ctrHi := rfl
@[simp] theorem State.start_evoMinor (s : State) (v : Word) : (s.start v).evoMinor = s.evoMinor := rfl
@[simp] theorem State.start_evoMajor (s : State) (v : Word) : (s.start v).evoMajor = s.evoMajor := rfl
@[simp] theorem State.start_rkOffset (s : State) (v : Word) : (s.start v).rkOffset = s.rkOffset := rfl
@[simp] theorem State.start_rk (s : State) (v : Word) : (s.start v).rk = s.rk := rfl
@[simp] theorem State.start_t1 (s : State) (v : Word) : (s.start v).t1 = s.t1 := rfl
@[simp] theorem State.start_t2 (s : State) (v : Word) : (s.start v).t2 = s.t2 := rfl
@[simp] theorem State.start_t3 (s : State) (v : Word) : (s.start v).t3 = s.t3 := rfl
@[simp] theorem State.start_host (s : State) (v : Word) : (s.start v).host = s.host := rfl
@[simp] theorem State.start_sched (s : State) (v : Word) : (s.start v).sched = s.sched := rfl
@[simp] theorem State.start_resp (s : State) (v : Word) : (s.start v).resp = s.resp := rfl
@[simp] theorem State.start_draws (s : State) (v : Word) : (s.start v).draws = s.draws := rfl

/-! ### `State.setTable`: a table and its valid bit written (41_table_generation.md R121) -/

@[simp] theorem State.setTable_busy (s : State) (t : TableId) (T : Table) : (s.setTable t T).busy = s.busy := rfl
@[simp] theorem State.setTable_cmd (s : State) (t : TableId) (T : Table) : (s.setTable t T).cmd = s.cmd := rfl
@[simp] theorem State.setTable_err (s : State) (t : TableId) (T : Table) : (s.setTable t T).err = s.err := rfl
@[simp] theorem State.setTable_errCode (s : State) (t : TableId) (T : Table) : (s.setTable t T).errCode = s.errCode := rfl
@[simp] theorem State.setTable_keysValid (s : State) (t : TableId) (T : Table) : (s.setTable t T).keysValid = s.keysValid := rfl
@[simp] theorem State.setTable_t1Valid (s : State) (t : TableId) (T : Table) : (s.setTable t T).t1Valid = if t = .t1 then true else s.t1Valid := rfl
@[simp] theorem State.setTable_t2Valid (s : State) (t : TableId) (T : Table) : (s.setTable t T).t2Valid = if t = .t2 then true else s.t2Valid := rfl
@[simp] theorem State.setTable_t3Valid (s : State) (t : TableId) (T : Table) : (s.setTable t T).t3Valid = if t = .t3 then true else s.t3Valid := rfl
@[simp] theorem State.setTable_key0 (s : State) (t : TableId) (T : Table) : (s.setTable t T).key0 = s.key0 := rfl
@[simp] theorem State.setTable_key1 (s : State) (t : TableId) (T : Table) : (s.setTable t T).key1 = s.key1 := rfl
@[simp] theorem State.setTable_key2 (s : State) (t : TableId) (T : Table) : (s.setTable t T).key2 = s.key2 := rfl
@[simp] theorem State.setTable_seed0 (s : State) (t : TableId) (T : Table) : (s.setTable t T).seed0 = s.seed0 := rfl
@[simp] theorem State.setTable_seed1 (s : State) (t : TableId) (T : Table) : (s.setTable t T).seed1 = s.seed1 := rfl
@[simp] theorem State.setTable_seed2 (s : State) (t : TableId) (T : Table) : (s.setTable t T).seed2 = s.seed2 := rfl
@[simp] theorem State.setTable_din0 (s : State) (t : TableId) (T : Table) : (s.setTable t T).din0 = s.din0 := rfl
@[simp] theorem State.setTable_din1 (s : State) (t : TableId) (T : Table) : (s.setTable t T).din1 = s.din1 := rfl
@[simp] theorem State.setTable_dout0 (s : State) (t : TableId) (T : Table) : (s.setTable t T).dout0 = s.dout0 := rfl
@[simp] theorem State.setTable_dout1 (s : State) (t : TableId) (T : Table) : (s.setTable t T).dout1 = s.dout1 := rfl
@[simp] theorem State.setTable_pidxLo (s : State) (t : TableId) (T : Table) : (s.setTable t T).pidxLo = s.pidxLo := rfl
@[simp] theorem State.setTable_pidxHi (s : State) (t : TableId) (T : Table) : (s.setTable t T).pidxHi = s.pidxHi := rfl
@[simp] theorem State.setTable_psizeLo (s : State) (t : TableId) (T : Table) : (s.setTable t T).psizeLo = s.psizeLo := rfl
@[simp] theorem State.setTable_psizeHi (s : State) (t : TableId) (T : Table) : (s.setTable t T).psizeHi = s.psizeHi := rfl
@[simp] theorem State.setTable_boffLo (s : State) (t : TableId) (T : Table) : (s.setTable t T).boffLo = s.boffLo := rfl
@[simp] theorem State.setTable_boffHi (s : State) (t : TableId) (T : Table) : (s.setTable t T).boffHi = s.boffHi := rfl
@[simp] theorem State.setTable_ctxIndex (s : State) (t : TableId) (T : Table) : (s.setTable t T).ctxIndex = s.ctxIndex := rfl
@[simp] theorem State.setTable_ctrLo (s : State) (t : TableId) (T : Table) : (s.setTable t T).ctrLo = s.ctrLo := rfl
@[simp] theorem State.setTable_ctrHi (s : State) (t : TableId) (T : Table) : (s.setTable t T).ctrHi = s.ctrHi := rfl
@[simp] theorem State.setTable_evoMinor (s : State) (t : TableId) (T : Table) : (s.setTable t T).evoMinor = s.evoMinor := rfl
@[simp] theorem State.setTable_evoMajor (s : State) (t : TableId) (T : Table) : (s.setTable t T).evoMajor = s.evoMajor := rfl
@[simp] theorem State.setTable_rkOffset (s : State) (t : TableId) (T : Table) : (s.setTable t T).rkOffset = s.rkOffset := rfl
@[simp] theorem State.setTable_rk (s : State) (t : TableId) (T : Table) : (s.setTable t T).rk = s.rk := rfl
@[simp] theorem State.setTable_t1 (s : State) (t : TableId) (T : Table) : (s.setTable t T).t1 = if t = .t1 then T else s.t1 := rfl
@[simp] theorem State.setTable_t2 (s : State) (t : TableId) (T : Table) : (s.setTable t T).t2 = if t = .t2 then T else s.t2 := rfl
@[simp] theorem State.setTable_t3 (s : State) (t : TableId) (T : Table) : (s.setTable t T).t3 = if t = .t3 then T else s.t3 := rfl
@[simp] theorem State.setTable_host (s : State) (t : TableId) (T : Table) : (s.setTable t T).host = s.host := rfl
@[simp] theorem State.setTable_sched (s : State) (t : TableId) (T : Table) : (s.setTable t T).sched = s.sched := rfl
@[simp] theorem State.setTable_resp (s : State) (t : TableId) (T : Table) : (s.setTable t T).resp = s.resp := rfl
@[simp] theorem State.setTable_draws (s : State) (t : TableId) (T : Table) : (s.setTable t T).draws = s.draws := rfl

/-! ### `State.setKeys`: the round-key file and its valid bit written (42_key_schedule.md R131) -/

@[simp] theorem State.setKeys_busy (s : State) (rk : KeyFile) : (s.setKeys rk).busy = s.busy := rfl
@[simp] theorem State.setKeys_cmd (s : State) (rk : KeyFile) : (s.setKeys rk).cmd = s.cmd := rfl
@[simp] theorem State.setKeys_err (s : State) (rk : KeyFile) : (s.setKeys rk).err = s.err := rfl
@[simp] theorem State.setKeys_errCode (s : State) (rk : KeyFile) : (s.setKeys rk).errCode = s.errCode := rfl
@[simp] theorem State.setKeys_keysValid (s : State) (rk : KeyFile) : (s.setKeys rk).keysValid = true := rfl
@[simp] theorem State.setKeys_t1Valid (s : State) (rk : KeyFile) : (s.setKeys rk).t1Valid = s.t1Valid := rfl
@[simp] theorem State.setKeys_t2Valid (s : State) (rk : KeyFile) : (s.setKeys rk).t2Valid = s.t2Valid := rfl
@[simp] theorem State.setKeys_t3Valid (s : State) (rk : KeyFile) : (s.setKeys rk).t3Valid = s.t3Valid := rfl
@[simp] theorem State.setKeys_key0 (s : State) (rk : KeyFile) : (s.setKeys rk).key0 = s.key0 := rfl
@[simp] theorem State.setKeys_key1 (s : State) (rk : KeyFile) : (s.setKeys rk).key1 = s.key1 := rfl
@[simp] theorem State.setKeys_key2 (s : State) (rk : KeyFile) : (s.setKeys rk).key2 = s.key2 := rfl
@[simp] theorem State.setKeys_seed0 (s : State) (rk : KeyFile) : (s.setKeys rk).seed0 = s.seed0 := rfl
@[simp] theorem State.setKeys_seed1 (s : State) (rk : KeyFile) : (s.setKeys rk).seed1 = s.seed1 := rfl
@[simp] theorem State.setKeys_seed2 (s : State) (rk : KeyFile) : (s.setKeys rk).seed2 = s.seed2 := rfl
@[simp] theorem State.setKeys_din0 (s : State) (rk : KeyFile) : (s.setKeys rk).din0 = s.din0 := rfl
@[simp] theorem State.setKeys_din1 (s : State) (rk : KeyFile) : (s.setKeys rk).din1 = s.din1 := rfl
@[simp] theorem State.setKeys_dout0 (s : State) (rk : KeyFile) : (s.setKeys rk).dout0 = s.dout0 := rfl
@[simp] theorem State.setKeys_dout1 (s : State) (rk : KeyFile) : (s.setKeys rk).dout1 = s.dout1 := rfl
@[simp] theorem State.setKeys_pidxLo (s : State) (rk : KeyFile) : (s.setKeys rk).pidxLo = s.pidxLo := rfl
@[simp] theorem State.setKeys_pidxHi (s : State) (rk : KeyFile) : (s.setKeys rk).pidxHi = s.pidxHi := rfl
@[simp] theorem State.setKeys_psizeLo (s : State) (rk : KeyFile) : (s.setKeys rk).psizeLo = s.psizeLo := rfl
@[simp] theorem State.setKeys_psizeHi (s : State) (rk : KeyFile) : (s.setKeys rk).psizeHi = s.psizeHi := rfl
@[simp] theorem State.setKeys_boffLo (s : State) (rk : KeyFile) : (s.setKeys rk).boffLo = s.boffLo := rfl
@[simp] theorem State.setKeys_boffHi (s : State) (rk : KeyFile) : (s.setKeys rk).boffHi = s.boffHi := rfl
@[simp] theorem State.setKeys_ctxIndex (s : State) (rk : KeyFile) : (s.setKeys rk).ctxIndex = s.ctxIndex := rfl
@[simp] theorem State.setKeys_ctrLo (s : State) (rk : KeyFile) : (s.setKeys rk).ctrLo = s.ctrLo := rfl
@[simp] theorem State.setKeys_ctrHi (s : State) (rk : KeyFile) : (s.setKeys rk).ctrHi = s.ctrHi := rfl
@[simp] theorem State.setKeys_evoMinor (s : State) (rk : KeyFile) : (s.setKeys rk).evoMinor = s.evoMinor := rfl
@[simp] theorem State.setKeys_evoMajor (s : State) (rk : KeyFile) : (s.setKeys rk).evoMajor = s.evoMajor := rfl
@[simp] theorem State.setKeys_rkOffset (s : State) (rk : KeyFile) : (s.setKeys rk).rkOffset = s.rkOffset := rfl
@[simp] theorem State.setKeys_rk (s : State) (rk : KeyFile) : (s.setKeys rk).rk = rk := rfl
@[simp] theorem State.setKeys_t1 (s : State) (rk : KeyFile) : (s.setKeys rk).t1 = s.t1 := rfl
@[simp] theorem State.setKeys_t2 (s : State) (rk : KeyFile) : (s.setKeys rk).t2 = s.t2 := rfl
@[simp] theorem State.setKeys_t3 (s : State) (rk : KeyFile) : (s.setKeys rk).t3 = s.t3 := rfl
@[simp] theorem State.setKeys_host (s : State) (rk : KeyFile) : (s.setKeys rk).host = s.host := rfl
@[simp] theorem State.setKeys_sched (s : State) (rk : KeyFile) : (s.setKeys rk).sched = s.sched := rfl
@[simp] theorem State.setKeys_resp (s : State) (rk : KeyFile) : (s.setKeys rk).resp = s.resp := rfl
@[simp] theorem State.setKeys_draws (s : State) (rk : KeyFile) : (s.setKeys rk).draws = s.draws := rfl

/-! ### `State.setCtr`: the 64-bit counter written (43_stream_transform.md R145) -/

@[simp] theorem State.setCtr_busy (s : State) (c : DWord) : (s.setCtr c).busy = s.busy := rfl
@[simp] theorem State.setCtr_cmd (s : State) (c : DWord) : (s.setCtr c).cmd = s.cmd := rfl
@[simp] theorem State.setCtr_err (s : State) (c : DWord) : (s.setCtr c).err = s.err := rfl
@[simp] theorem State.setCtr_errCode (s : State) (c : DWord) : (s.setCtr c).errCode = s.errCode := rfl
@[simp] theorem State.setCtr_keysValid (s : State) (c : DWord) : (s.setCtr c).keysValid = s.keysValid := rfl
@[simp] theorem State.setCtr_t1Valid (s : State) (c : DWord) : (s.setCtr c).t1Valid = s.t1Valid := rfl
@[simp] theorem State.setCtr_t2Valid (s : State) (c : DWord) : (s.setCtr c).t2Valid = s.t2Valid := rfl
@[simp] theorem State.setCtr_t3Valid (s : State) (c : DWord) : (s.setCtr c).t3Valid = s.t3Valid := rfl
@[simp] theorem State.setCtr_key0 (s : State) (c : DWord) : (s.setCtr c).key0 = s.key0 := rfl
@[simp] theorem State.setCtr_key1 (s : State) (c : DWord) : (s.setCtr c).key1 = s.key1 := rfl
@[simp] theorem State.setCtr_key2 (s : State) (c : DWord) : (s.setCtr c).key2 = s.key2 := rfl
@[simp] theorem State.setCtr_seed0 (s : State) (c : DWord) : (s.setCtr c).seed0 = s.seed0 := rfl
@[simp] theorem State.setCtr_seed1 (s : State) (c : DWord) : (s.setCtr c).seed1 = s.seed1 := rfl
@[simp] theorem State.setCtr_seed2 (s : State) (c : DWord) : (s.setCtr c).seed2 = s.seed2 := rfl
@[simp] theorem State.setCtr_din0 (s : State) (c : DWord) : (s.setCtr c).din0 = s.din0 := rfl
@[simp] theorem State.setCtr_din1 (s : State) (c : DWord) : (s.setCtr c).din1 = s.din1 := rfl
@[simp] theorem State.setCtr_dout0 (s : State) (c : DWord) : (s.setCtr c).dout0 = s.dout0 := rfl
@[simp] theorem State.setCtr_dout1 (s : State) (c : DWord) : (s.setCtr c).dout1 = s.dout1 := rfl
@[simp] theorem State.setCtr_pidxLo (s : State) (c : DWord) : (s.setCtr c).pidxLo = s.pidxLo := rfl
@[simp] theorem State.setCtr_pidxHi (s : State) (c : DWord) : (s.setCtr c).pidxHi = s.pidxHi := rfl
@[simp] theorem State.setCtr_psizeLo (s : State) (c : DWord) : (s.setCtr c).psizeLo = s.psizeLo := rfl
@[simp] theorem State.setCtr_psizeHi (s : State) (c : DWord) : (s.setCtr c).psizeHi = s.psizeHi := rfl
@[simp] theorem State.setCtr_boffLo (s : State) (c : DWord) : (s.setCtr c).boffLo = s.boffLo := rfl
@[simp] theorem State.setCtr_boffHi (s : State) (c : DWord) : (s.setCtr c).boffHi = s.boffHi := rfl
@[simp] theorem State.setCtr_ctxIndex (s : State) (c : DWord) : (s.setCtr c).ctxIndex = s.ctxIndex := rfl
@[simp] theorem State.setCtr_ctrLo (s : State) (c : DWord) : (s.setCtr c).ctrLo = lowWord c := rfl
@[simp] theorem State.setCtr_ctrHi (s : State) (c : DWord) : (s.setCtr c).ctrHi = highWord c := rfl
@[simp] theorem State.setCtr_evoMinor (s : State) (c : DWord) : (s.setCtr c).evoMinor = s.evoMinor := rfl
@[simp] theorem State.setCtr_evoMajor (s : State) (c : DWord) : (s.setCtr c).evoMajor = s.evoMajor := rfl
@[simp] theorem State.setCtr_rkOffset (s : State) (c : DWord) : (s.setCtr c).rkOffset = s.rkOffset := rfl
@[simp] theorem State.setCtr_rk (s : State) (c : DWord) : (s.setCtr c).rk = s.rk := rfl
@[simp] theorem State.setCtr_t1 (s : State) (c : DWord) : (s.setCtr c).t1 = s.t1 := rfl
@[simp] theorem State.setCtr_t2 (s : State) (c : DWord) : (s.setCtr c).t2 = s.t2 := rfl
@[simp] theorem State.setCtr_t3 (s : State) (c : DWord) : (s.setCtr c).t3 = s.t3 := rfl
@[simp] theorem State.setCtr_host (s : State) (c : DWord) : (s.setCtr c).host = s.host := rfl
@[simp] theorem State.setCtr_sched (s : State) (c : DWord) : (s.setCtr c).sched = s.sched := rfl
@[simp] theorem State.setCtr_resp (s : State) (c : DWord) : (s.setCtr c).resp = s.resp := rfl
@[simp] theorem State.setCtr_draws (s : State) (c : DWord) : (s.setCtr c).draws = s.draws := rfl

/-! ### `State.setDout`: the output words written (43_stream_transform.md R145) -/

@[simp] theorem State.setDout_busy (s : State) (d0 d1 : Word) : (s.setDout d0 d1).busy = s.busy := rfl
@[simp] theorem State.setDout_cmd (s : State) (d0 d1 : Word) : (s.setDout d0 d1).cmd = s.cmd := rfl
@[simp] theorem State.setDout_err (s : State) (d0 d1 : Word) : (s.setDout d0 d1).err = s.err := rfl
@[simp] theorem State.setDout_errCode (s : State) (d0 d1 : Word) : (s.setDout d0 d1).errCode = s.errCode := rfl
@[simp] theorem State.setDout_keysValid (s : State) (d0 d1 : Word) : (s.setDout d0 d1).keysValid = s.keysValid := rfl
@[simp] theorem State.setDout_t1Valid (s : State) (d0 d1 : Word) : (s.setDout d0 d1).t1Valid = s.t1Valid := rfl
@[simp] theorem State.setDout_t2Valid (s : State) (d0 d1 : Word) : (s.setDout d0 d1).t2Valid = s.t2Valid := rfl
@[simp] theorem State.setDout_t3Valid (s : State) (d0 d1 : Word) : (s.setDout d0 d1).t3Valid = s.t3Valid := rfl
@[simp] theorem State.setDout_key0 (s : State) (d0 d1 : Word) : (s.setDout d0 d1).key0 = s.key0 := rfl
@[simp] theorem State.setDout_key1 (s : State) (d0 d1 : Word) : (s.setDout d0 d1).key1 = s.key1 := rfl
@[simp] theorem State.setDout_key2 (s : State) (d0 d1 : Word) : (s.setDout d0 d1).key2 = s.key2 := rfl
@[simp] theorem State.setDout_seed0 (s : State) (d0 d1 : Word) : (s.setDout d0 d1).seed0 = s.seed0 := rfl
@[simp] theorem State.setDout_seed1 (s : State) (d0 d1 : Word) : (s.setDout d0 d1).seed1 = s.seed1 := rfl
@[simp] theorem State.setDout_seed2 (s : State) (d0 d1 : Word) : (s.setDout d0 d1).seed2 = s.seed2 := rfl
@[simp] theorem State.setDout_din0 (s : State) (d0 d1 : Word) : (s.setDout d0 d1).din0 = s.din0 := rfl
@[simp] theorem State.setDout_din1 (s : State) (d0 d1 : Word) : (s.setDout d0 d1).din1 = s.din1 := rfl
@[simp] theorem State.setDout_dout0 (s : State) (d0 d1 : Word) : (s.setDout d0 d1).dout0 = d0 := rfl
@[simp] theorem State.setDout_dout1 (s : State) (d0 d1 : Word) : (s.setDout d0 d1).dout1 = d1 := rfl
@[simp] theorem State.setDout_pidxLo (s : State) (d0 d1 : Word) : (s.setDout d0 d1).pidxLo = s.pidxLo := rfl
@[simp] theorem State.setDout_pidxHi (s : State) (d0 d1 : Word) : (s.setDout d0 d1).pidxHi = s.pidxHi := rfl
@[simp] theorem State.setDout_psizeLo (s : State) (d0 d1 : Word) : (s.setDout d0 d1).psizeLo = s.psizeLo := rfl
@[simp] theorem State.setDout_psizeHi (s : State) (d0 d1 : Word) : (s.setDout d0 d1).psizeHi = s.psizeHi := rfl
@[simp] theorem State.setDout_boffLo (s : State) (d0 d1 : Word) : (s.setDout d0 d1).boffLo = s.boffLo := rfl
@[simp] theorem State.setDout_boffHi (s : State) (d0 d1 : Word) : (s.setDout d0 d1).boffHi = s.boffHi := rfl
@[simp] theorem State.setDout_ctxIndex (s : State) (d0 d1 : Word) : (s.setDout d0 d1).ctxIndex = s.ctxIndex := rfl
@[simp] theorem State.setDout_ctrLo (s : State) (d0 d1 : Word) : (s.setDout d0 d1).ctrLo = s.ctrLo := rfl
@[simp] theorem State.setDout_ctrHi (s : State) (d0 d1 : Word) : (s.setDout d0 d1).ctrHi = s.ctrHi := rfl
@[simp] theorem State.setDout_evoMinor (s : State) (d0 d1 : Word) : (s.setDout d0 d1).evoMinor = s.evoMinor := rfl
@[simp] theorem State.setDout_evoMajor (s : State) (d0 d1 : Word) : (s.setDout d0 d1).evoMajor = s.evoMajor := rfl
@[simp] theorem State.setDout_rkOffset (s : State) (d0 d1 : Word) : (s.setDout d0 d1).rkOffset = s.rkOffset := rfl
@[simp] theorem State.setDout_rk (s : State) (d0 d1 : Word) : (s.setDout d0 d1).rk = s.rk := rfl
@[simp] theorem State.setDout_t1 (s : State) (d0 d1 : Word) : (s.setDout d0 d1).t1 = s.t1 := rfl
@[simp] theorem State.setDout_t2 (s : State) (d0 d1 : Word) : (s.setDout d0 d1).t2 = s.t2 := rfl
@[simp] theorem State.setDout_t3 (s : State) (d0 d1 : Word) : (s.setDout d0 d1).t3 = s.t3 := rfl
@[simp] theorem State.setDout_host (s : State) (d0 d1 : Word) : (s.setDout d0 d1).host = s.host := rfl
@[simp] theorem State.setDout_sched (s : State) (d0 d1 : Word) : (s.setDout d0 d1).sched = s.sched := rfl
@[simp] theorem State.setDout_resp (s : State) (d0 d1 : Word) : (s.setDout d0 d1).resp = s.resp := rfl
@[simp] theorem State.setDout_draws (s : State) (d0 d1 : Word) : (s.setDout d0 d1).draws = s.draws := rfl

/-! ### `State.rewind`: the position zeroed (45_context_control.md R171) -/

@[simp] theorem State.rewind_busy (s : State) : (s.rewind).busy = s.busy := rfl
@[simp] theorem State.rewind_cmd (s : State) : (s.rewind).cmd = s.cmd := rfl
@[simp] theorem State.rewind_err (s : State) : (s.rewind).err = s.err := rfl
@[simp] theorem State.rewind_errCode (s : State) : (s.rewind).errCode = s.errCode := rfl
@[simp] theorem State.rewind_keysValid (s : State) : (s.rewind).keysValid = s.keysValid := rfl
@[simp] theorem State.rewind_t1Valid (s : State) : (s.rewind).t1Valid = s.t1Valid := rfl
@[simp] theorem State.rewind_t2Valid (s : State) : (s.rewind).t2Valid = s.t2Valid := rfl
@[simp] theorem State.rewind_t3Valid (s : State) : (s.rewind).t3Valid = s.t3Valid := rfl
@[simp] theorem State.rewind_key0 (s : State) : (s.rewind).key0 = s.key0 := rfl
@[simp] theorem State.rewind_key1 (s : State) : (s.rewind).key1 = s.key1 := rfl
@[simp] theorem State.rewind_key2 (s : State) : (s.rewind).key2 = s.key2 := rfl
@[simp] theorem State.rewind_seed0 (s : State) : (s.rewind).seed0 = s.seed0 := rfl
@[simp] theorem State.rewind_seed1 (s : State) : (s.rewind).seed1 = s.seed1 := rfl
@[simp] theorem State.rewind_seed2 (s : State) : (s.rewind).seed2 = s.seed2 := rfl
@[simp] theorem State.rewind_din0 (s : State) : (s.rewind).din0 = s.din0 := rfl
@[simp] theorem State.rewind_din1 (s : State) : (s.rewind).din1 = s.din1 := rfl
@[simp] theorem State.rewind_dout0 (s : State) : (s.rewind).dout0 = s.dout0 := rfl
@[simp] theorem State.rewind_dout1 (s : State) : (s.rewind).dout1 = s.dout1 := rfl
@[simp] theorem State.rewind_pidxLo (s : State) : (s.rewind).pidxLo = s.pidxLo := rfl
@[simp] theorem State.rewind_pidxHi (s : State) : (s.rewind).pidxHi = s.pidxHi := rfl
@[simp] theorem State.rewind_psizeLo (s : State) : (s.rewind).psizeLo = s.psizeLo := rfl
@[simp] theorem State.rewind_psizeHi (s : State) : (s.rewind).psizeHi = s.psizeHi := rfl
@[simp] theorem State.rewind_boffLo (s : State) : (s.rewind).boffLo = s.boffLo := rfl
@[simp] theorem State.rewind_boffHi (s : State) : (s.rewind).boffHi = s.boffHi := rfl
@[simp] theorem State.rewind_ctxIndex (s : State) : (s.rewind).ctxIndex = s.ctxIndex := rfl
@[simp] theorem State.rewind_ctrLo (s : State) : (s.rewind).ctrLo = 0 := rfl
@[simp] theorem State.rewind_ctrHi (s : State) : (s.rewind).ctrHi = 0 := rfl
@[simp] theorem State.rewind_evoMinor (s : State) : (s.rewind).evoMinor = 0 := rfl
@[simp] theorem State.rewind_evoMajor (s : State) : (s.rewind).evoMajor = 0 := rfl
@[simp] theorem State.rewind_rkOffset (s : State) : (s.rewind).rkOffset = 0 := rfl
@[simp] theorem State.rewind_rk (s : State) : (s.rewind).rk = s.rk := rfl
@[simp] theorem State.rewind_t1 (s : State) : (s.rewind).t1 = s.t1 := rfl
@[simp] theorem State.rewind_t2 (s : State) : (s.rewind).t2 = s.t2 := rfl
@[simp] theorem State.rewind_t3 (s : State) : (s.rewind).t3 = s.t3 := rfl
@[simp] theorem State.rewind_host (s : State) : (s.rewind).host = s.host := rfl
@[simp] theorem State.rewind_sched (s : State) : (s.rewind).sched = s.sched := rfl
@[simp] theorem State.rewind_resp (s : State) : (s.rewind).resp = s.resp := rfl
@[simp] theorem State.rewind_draws (s : State) : (s.rewind).draws = s.draws := rfl

/-! ### `State.evolve`: `Evolve()` (43_stream_transform.md R143) -/

@[simp] theorem State.evolve_busy (s : State) : (s.evolve).busy = s.busy := rfl
@[simp] theorem State.evolve_cmd (s : State) : (s.evolve).cmd = s.cmd := rfl
@[simp] theorem State.evolve_err (s : State) : (s.evolve).err = s.err := rfl
@[simp] theorem State.evolve_errCode (s : State) : (s.evolve).errCode = s.errCode := rfl
@[simp] theorem State.evolve_keysValid (s : State) : (s.evolve).keysValid = s.keysValid := rfl
@[simp] theorem State.evolve_t1Valid (s : State) : (s.evolve).t1Valid = s.t1Valid := rfl
@[simp] theorem State.evolve_t2Valid (s : State) : (s.evolve).t2Valid = s.t2Valid := rfl
@[simp] theorem State.evolve_t3Valid (s : State) : (s.evolve).t3Valid = s.t3Valid := rfl
@[simp] theorem State.evolve_key0 (s : State) : (s.evolve).key0 = s.key0 := rfl
@[simp] theorem State.evolve_key1 (s : State) : (s.evolve).key1 = s.key1 := rfl
@[simp] theorem State.evolve_key2 (s : State) : (s.evolve).key2 = s.key2 := rfl
@[simp] theorem State.evolve_seed0 (s : State) : (s.evolve).seed0 = s.seed0 := rfl
@[simp] theorem State.evolve_seed1 (s : State) : (s.evolve).seed1 = s.seed1 := rfl
@[simp] theorem State.evolve_seed2 (s : State) : (s.evolve).seed2 = s.seed2 := rfl
@[simp] theorem State.evolve_din0 (s : State) : (s.evolve).din0 = s.din0 := rfl
@[simp] theorem State.evolve_din1 (s : State) : (s.evolve).din1 = s.din1 := rfl
@[simp] theorem State.evolve_dout0 (s : State) : (s.evolve).dout0 = s.dout0 := rfl
@[simp] theorem State.evolve_dout1 (s : State) : (s.evolve).dout1 = s.dout1 := rfl
@[simp] theorem State.evolve_pidxLo (s : State) : (s.evolve).pidxLo = s.pidxLo := rfl
@[simp] theorem State.evolve_pidxHi (s : State) : (s.evolve).pidxHi = s.pidxHi := rfl
@[simp] theorem State.evolve_psizeLo (s : State) : (s.evolve).psizeLo = s.psizeLo := rfl
@[simp] theorem State.evolve_psizeHi (s : State) : (s.evolve).psizeHi = s.psizeHi := rfl
@[simp] theorem State.evolve_boffLo (s : State) : (s.evolve).boffLo = s.boffLo := rfl
@[simp] theorem State.evolve_boffHi (s : State) : (s.evolve).boffHi = s.boffHi := rfl
@[simp] theorem State.evolve_ctxIndex (s : State) : (s.evolve).ctxIndex = s.ctxIndex := rfl
@[simp] theorem State.evolve_ctrLo (s : State) : (s.evolve).ctrLo = s.ctrLo := rfl
@[simp] theorem State.evolve_ctrHi (s : State) : (s.evolve).ctrHi = s.ctrHi := rfl
@[simp] theorem State.evolve_evoMinor (s : State) : (s.evolve).evoMinor = if s.minorFires then 0 else s.evoMinor + 1 := rfl
@[simp] theorem State.evolve_evoMajor (s : State) : (s.evolve).evoMajor = if s.majorFires then 0 else s.evoMajor + 1 := rfl
@[simp] theorem State.evolve_rkOffset (s : State) : (s.evolve).rkOffset = s.rkOffset := rfl
@[simp] theorem State.evolve_rk (s : State) : (s.evolve).rk = s.rk := rfl
@[simp] theorem State.evolve_t1 (s : State) : (s.evolve).t1 = if s.minorFires then compose s.t2 s.t1 else s.t1 := rfl
@[simp] theorem State.evolve_t2 (s : State) : (s.evolve).t2 = if s.majorFires then compose s.t3 s.t2 else s.t2 := rfl
@[simp] theorem State.evolve_t3 (s : State) : (s.evolve).t3 = s.t3 := rfl
@[simp] theorem State.evolve_host (s : State) : (s.evolve).host = s.host := rfl
@[simp] theorem State.evolve_sched (s : State) : (s.evolve).sched = s.sched := rfl
@[simp] theorem State.evolve_resp (s : State) : (s.evolve).resp = s.resp := rfl
@[simp] theorem State.evolve_draws (s : State) : (s.evolve).draws = s.draws := rfl

/-! ### `State.advanceOffset`: the offset's advance (43_stream_transform.md R145) -/

@[simp] theorem State.advanceOffset_busy (s : State) : (s.advanceOffset).busy = s.busy := rfl
@[simp] theorem State.advanceOffset_cmd (s : State) : (s.advanceOffset).cmd = s.cmd := rfl
@[simp] theorem State.advanceOffset_err (s : State) : (s.advanceOffset).err = s.err := rfl
@[simp] theorem State.advanceOffset_errCode (s : State) : (s.advanceOffset).errCode = s.errCode := rfl
@[simp] theorem State.advanceOffset_keysValid (s : State) : (s.advanceOffset).keysValid = s.keysValid := rfl
@[simp] theorem State.advanceOffset_t1Valid (s : State) : (s.advanceOffset).t1Valid = s.t1Valid := rfl
@[simp] theorem State.advanceOffset_t2Valid (s : State) : (s.advanceOffset).t2Valid = s.t2Valid := rfl
@[simp] theorem State.advanceOffset_t3Valid (s : State) : (s.advanceOffset).t3Valid = s.t3Valid := rfl
@[simp] theorem State.advanceOffset_key0 (s : State) : (s.advanceOffset).key0 = s.key0 := rfl
@[simp] theorem State.advanceOffset_key1 (s : State) : (s.advanceOffset).key1 = s.key1 := rfl
@[simp] theorem State.advanceOffset_key2 (s : State) : (s.advanceOffset).key2 = s.key2 := rfl
@[simp] theorem State.advanceOffset_seed0 (s : State) : (s.advanceOffset).seed0 = s.seed0 := rfl
@[simp] theorem State.advanceOffset_seed1 (s : State) : (s.advanceOffset).seed1 = s.seed1 := rfl
@[simp] theorem State.advanceOffset_seed2 (s : State) : (s.advanceOffset).seed2 = s.seed2 := rfl
@[simp] theorem State.advanceOffset_din0 (s : State) : (s.advanceOffset).din0 = s.din0 := rfl
@[simp] theorem State.advanceOffset_din1 (s : State) : (s.advanceOffset).din1 = s.din1 := rfl
@[simp] theorem State.advanceOffset_dout0 (s : State) : (s.advanceOffset).dout0 = s.dout0 := rfl
@[simp] theorem State.advanceOffset_dout1 (s : State) : (s.advanceOffset).dout1 = s.dout1 := rfl
@[simp] theorem State.advanceOffset_pidxLo (s : State) : (s.advanceOffset).pidxLo = s.pidxLo := rfl
@[simp] theorem State.advanceOffset_pidxHi (s : State) : (s.advanceOffset).pidxHi = s.pidxHi := rfl
@[simp] theorem State.advanceOffset_psizeLo (s : State) : (s.advanceOffset).psizeLo = s.psizeLo := rfl
@[simp] theorem State.advanceOffset_psizeHi (s : State) : (s.advanceOffset).psizeHi = s.psizeHi := rfl
@[simp] theorem State.advanceOffset_boffLo (s : State) : (s.advanceOffset).boffLo = s.boffLo := rfl
@[simp] theorem State.advanceOffset_boffHi (s : State) : (s.advanceOffset).boffHi = s.boffHi := rfl
@[simp] theorem State.advanceOffset_ctxIndex (s : State) : (s.advanceOffset).ctxIndex = s.ctxIndex := rfl
@[simp] theorem State.advanceOffset_ctrLo (s : State) : (s.advanceOffset).ctrLo = s.ctrLo := rfl
@[simp] theorem State.advanceOffset_ctrHi (s : State) : (s.advanceOffset).ctrHi = s.ctrHi := rfl
@[simp] theorem State.advanceOffset_evoMinor (s : State) : (s.advanceOffset).evoMinor = s.evoMinor := rfl
@[simp] theorem State.advanceOffset_evoMajor (s : State) : (s.advanceOffset).evoMajor = s.evoMajor := rfl
@[simp] theorem State.advanceOffset_rkOffset (s : State) : (s.advanceOffset).rkOffset = BitVec.ofNat 8 ((s.rkOffset.toNat + 7) % 18) := rfl
@[simp] theorem State.advanceOffset_rk (s : State) : (s.advanceOffset).rk = s.rk := rfl
@[simp] theorem State.advanceOffset_t1 (s : State) : (s.advanceOffset).t1 = s.t1 := rfl
@[simp] theorem State.advanceOffset_t2 (s : State) : (s.advanceOffset).t2 = s.t2 := rfl
@[simp] theorem State.advanceOffset_t3 (s : State) : (s.advanceOffset).t3 = s.t3 := rfl
@[simp] theorem State.advanceOffset_host (s : State) : (s.advanceOffset).host = s.host := rfl
@[simp] theorem State.advanceOffset_sched (s : State) : (s.advanceOffset).sched = s.sched := rfl
@[simp] theorem State.advanceOffset_resp (s : State) : (s.advanceOffset).resp = s.resp := rfl
@[simp] theorem State.advanceOffset_draws (s : State) : (s.advanceOffset).draws = s.draws := rfl

/-! ### `State.hardwareReset`: hardware reset (70_reset_and_hazards.md R230) -/

@[simp] theorem State.hardwareReset_busy (s : State) (n : Nat) : (s.hardwareReset n).busy = State.reset.busy := rfl
@[simp] theorem State.hardwareReset_cmd (s : State) (n : Nat) : (s.hardwareReset n).cmd = State.reset.cmd := rfl
@[simp] theorem State.hardwareReset_err (s : State) (n : Nat) : (s.hardwareReset n).err = State.reset.err := rfl
@[simp] theorem State.hardwareReset_errCode (s : State) (n : Nat) : (s.hardwareReset n).errCode = State.reset.errCode := rfl
@[simp] theorem State.hardwareReset_keysValid (s : State) (n : Nat) : (s.hardwareReset n).keysValid = State.reset.keysValid := rfl
@[simp] theorem State.hardwareReset_t1Valid (s : State) (n : Nat) : (s.hardwareReset n).t1Valid = State.reset.t1Valid := rfl
@[simp] theorem State.hardwareReset_t2Valid (s : State) (n : Nat) : (s.hardwareReset n).t2Valid = State.reset.t2Valid := rfl
@[simp] theorem State.hardwareReset_t3Valid (s : State) (n : Nat) : (s.hardwareReset n).t3Valid = State.reset.t3Valid := rfl
@[simp] theorem State.hardwareReset_key0 (s : State) (n : Nat) : (s.hardwareReset n).key0 = State.reset.key0 := rfl
@[simp] theorem State.hardwareReset_key1 (s : State) (n : Nat) : (s.hardwareReset n).key1 = State.reset.key1 := rfl
@[simp] theorem State.hardwareReset_key2 (s : State) (n : Nat) : (s.hardwareReset n).key2 = State.reset.key2 := rfl
@[simp] theorem State.hardwareReset_seed0 (s : State) (n : Nat) : (s.hardwareReset n).seed0 = State.reset.seed0 := rfl
@[simp] theorem State.hardwareReset_seed1 (s : State) (n : Nat) : (s.hardwareReset n).seed1 = State.reset.seed1 := rfl
@[simp] theorem State.hardwareReset_seed2 (s : State) (n : Nat) : (s.hardwareReset n).seed2 = State.reset.seed2 := rfl
@[simp] theorem State.hardwareReset_din0 (s : State) (n : Nat) : (s.hardwareReset n).din0 = State.reset.din0 := rfl
@[simp] theorem State.hardwareReset_din1 (s : State) (n : Nat) : (s.hardwareReset n).din1 = State.reset.din1 := rfl
@[simp] theorem State.hardwareReset_dout0 (s : State) (n : Nat) : (s.hardwareReset n).dout0 = State.reset.dout0 := rfl
@[simp] theorem State.hardwareReset_dout1 (s : State) (n : Nat) : (s.hardwareReset n).dout1 = State.reset.dout1 := rfl
@[simp] theorem State.hardwareReset_pidxLo (s : State) (n : Nat) : (s.hardwareReset n).pidxLo = State.reset.pidxLo := rfl
@[simp] theorem State.hardwareReset_pidxHi (s : State) (n : Nat) : (s.hardwareReset n).pidxHi = State.reset.pidxHi := rfl
@[simp] theorem State.hardwareReset_psizeLo (s : State) (n : Nat) : (s.hardwareReset n).psizeLo = State.reset.psizeLo := rfl
@[simp] theorem State.hardwareReset_psizeHi (s : State) (n : Nat) : (s.hardwareReset n).psizeHi = State.reset.psizeHi := rfl
@[simp] theorem State.hardwareReset_boffLo (s : State) (n : Nat) : (s.hardwareReset n).boffLo = State.reset.boffLo := rfl
@[simp] theorem State.hardwareReset_boffHi (s : State) (n : Nat) : (s.hardwareReset n).boffHi = State.reset.boffHi := rfl
@[simp] theorem State.hardwareReset_ctxIndex (s : State) (n : Nat) : (s.hardwareReset n).ctxIndex = State.reset.ctxIndex := rfl
@[simp] theorem State.hardwareReset_ctrLo (s : State) (n : Nat) : (s.hardwareReset n).ctrLo = State.reset.ctrLo := rfl
@[simp] theorem State.hardwareReset_ctrHi (s : State) (n : Nat) : (s.hardwareReset n).ctrHi = State.reset.ctrHi := rfl
@[simp] theorem State.hardwareReset_evoMinor (s : State) (n : Nat) : (s.hardwareReset n).evoMinor = State.reset.evoMinor := rfl
@[simp] theorem State.hardwareReset_evoMajor (s : State) (n : Nat) : (s.hardwareReset n).evoMajor = State.reset.evoMajor := rfl
@[simp] theorem State.hardwareReset_rkOffset (s : State) (n : Nat) : (s.hardwareReset n).rkOffset = State.reset.rkOffset := rfl
@[simp] theorem State.hardwareReset_rk (s : State) (n : Nat) : (s.hardwareReset n).rk = State.reset.rk := rfl
@[simp] theorem State.hardwareReset_t1 (s : State) (n : Nat) : (s.hardwareReset n).t1 = State.reset.t1 := rfl
@[simp] theorem State.hardwareReset_t2 (s : State) (n : Nat) : (s.hardwareReset n).t2 = State.reset.t2 := rfl
@[simp] theorem State.hardwareReset_t3 (s : State) (n : Nat) : (s.hardwareReset n).t3 = State.reset.t3 := rfl
@[simp] theorem State.hardwareReset_host (s : State) (n : Nat) : (s.hardwareReset n).host = s.host.drop n := rfl
@[simp] theorem State.hardwareReset_sched (s : State) (n : Nat) : (s.hardwareReset n).sched = s.sched := rfl
@[simp] theorem State.hardwareReset_resp (s : State) (n : Nat) : (s.hardwareReset n).resp = State.reset.resp := rfl
@[simp] theorem State.hardwareReset_draws (s : State) (n : Nat) : (s.hardwareReset n).draws = s.draws := rfl

/-! ### `State.endTurn`: a turn used up -/

@[simp] theorem State.endTurn_busy (s : State) : (s.endTurn).busy = s.busy := rfl
@[simp] theorem State.endTurn_cmd (s : State) : (s.endTurn).cmd = s.cmd := rfl
@[simp] theorem State.endTurn_err (s : State) : (s.endTurn).err = s.err := rfl
@[simp] theorem State.endTurn_errCode (s : State) : (s.endTurn).errCode = s.errCode := rfl
@[simp] theorem State.endTurn_keysValid (s : State) : (s.endTurn).keysValid = s.keysValid := rfl
@[simp] theorem State.endTurn_t1Valid (s : State) : (s.endTurn).t1Valid = s.t1Valid := rfl
@[simp] theorem State.endTurn_t2Valid (s : State) : (s.endTurn).t2Valid = s.t2Valid := rfl
@[simp] theorem State.endTurn_t3Valid (s : State) : (s.endTurn).t3Valid = s.t3Valid := rfl
@[simp] theorem State.endTurn_key0 (s : State) : (s.endTurn).key0 = s.key0 := rfl
@[simp] theorem State.endTurn_key1 (s : State) : (s.endTurn).key1 = s.key1 := rfl
@[simp] theorem State.endTurn_key2 (s : State) : (s.endTurn).key2 = s.key2 := rfl
@[simp] theorem State.endTurn_seed0 (s : State) : (s.endTurn).seed0 = s.seed0 := rfl
@[simp] theorem State.endTurn_seed1 (s : State) : (s.endTurn).seed1 = s.seed1 := rfl
@[simp] theorem State.endTurn_seed2 (s : State) : (s.endTurn).seed2 = s.seed2 := rfl
@[simp] theorem State.endTurn_din0 (s : State) : (s.endTurn).din0 = s.din0 := rfl
@[simp] theorem State.endTurn_din1 (s : State) : (s.endTurn).din1 = s.din1 := rfl
@[simp] theorem State.endTurn_dout0 (s : State) : (s.endTurn).dout0 = s.dout0 := rfl
@[simp] theorem State.endTurn_dout1 (s : State) : (s.endTurn).dout1 = s.dout1 := rfl
@[simp] theorem State.endTurn_pidxLo (s : State) : (s.endTurn).pidxLo = s.pidxLo := rfl
@[simp] theorem State.endTurn_pidxHi (s : State) : (s.endTurn).pidxHi = s.pidxHi := rfl
@[simp] theorem State.endTurn_psizeLo (s : State) : (s.endTurn).psizeLo = s.psizeLo := rfl
@[simp] theorem State.endTurn_psizeHi (s : State) : (s.endTurn).psizeHi = s.psizeHi := rfl
@[simp] theorem State.endTurn_boffLo (s : State) : (s.endTurn).boffLo = s.boffLo := rfl
@[simp] theorem State.endTurn_boffHi (s : State) : (s.endTurn).boffHi = s.boffHi := rfl
@[simp] theorem State.endTurn_ctxIndex (s : State) : (s.endTurn).ctxIndex = s.ctxIndex := rfl
@[simp] theorem State.endTurn_ctrLo (s : State) : (s.endTurn).ctrLo = s.ctrLo := rfl
@[simp] theorem State.endTurn_ctrHi (s : State) : (s.endTurn).ctrHi = s.ctrHi := rfl
@[simp] theorem State.endTurn_evoMinor (s : State) : (s.endTurn).evoMinor = s.evoMinor := rfl
@[simp] theorem State.endTurn_evoMajor (s : State) : (s.endTurn).evoMajor = s.evoMajor := rfl
@[simp] theorem State.endTurn_rkOffset (s : State) : (s.endTurn).rkOffset = s.rkOffset := rfl
@[simp] theorem State.endTurn_rk (s : State) : (s.endTurn).rk = s.rk := rfl
@[simp] theorem State.endTurn_t1 (s : State) : (s.endTurn).t1 = s.t1 := rfl
@[simp] theorem State.endTurn_t2 (s : State) : (s.endTurn).t2 = s.t2 := rfl
@[simp] theorem State.endTurn_t3 (s : State) : (s.endTurn).t3 = s.t3 := rfl
@[simp] theorem State.endTurn_host (s : State) : (s.endTurn).host = s.host := rfl
@[simp] theorem State.endTurn_sched (s : State) : (s.endTurn).sched = s.sched.tail := rfl
@[simp] theorem State.endTurn_resp (s : State) : (s.endTurn).resp = s.resp := rfl
@[simp] theorem State.endTurn_draws (s : State) : (s.endTurn).draws = s.draws := rfl

/-! ### `State.giveEngineTurn`: the engine's turn made the next one -/

@[simp] theorem State.giveEngineTurn_busy (s : State) : (s.giveEngineTurn).busy = s.busy := rfl
@[simp] theorem State.giveEngineTurn_cmd (s : State) : (s.giveEngineTurn).cmd = s.cmd := rfl
@[simp] theorem State.giveEngineTurn_err (s : State) : (s.giveEngineTurn).err = s.err := rfl
@[simp] theorem State.giveEngineTurn_errCode (s : State) : (s.giveEngineTurn).errCode = s.errCode := rfl
@[simp] theorem State.giveEngineTurn_keysValid (s : State) : (s.giveEngineTurn).keysValid = s.keysValid := rfl
@[simp] theorem State.giveEngineTurn_t1Valid (s : State) : (s.giveEngineTurn).t1Valid = s.t1Valid := rfl
@[simp] theorem State.giveEngineTurn_t2Valid (s : State) : (s.giveEngineTurn).t2Valid = s.t2Valid := rfl
@[simp] theorem State.giveEngineTurn_t3Valid (s : State) : (s.giveEngineTurn).t3Valid = s.t3Valid := rfl
@[simp] theorem State.giveEngineTurn_key0 (s : State) : (s.giveEngineTurn).key0 = s.key0 := rfl
@[simp] theorem State.giveEngineTurn_key1 (s : State) : (s.giveEngineTurn).key1 = s.key1 := rfl
@[simp] theorem State.giveEngineTurn_key2 (s : State) : (s.giveEngineTurn).key2 = s.key2 := rfl
@[simp] theorem State.giveEngineTurn_seed0 (s : State) : (s.giveEngineTurn).seed0 = s.seed0 := rfl
@[simp] theorem State.giveEngineTurn_seed1 (s : State) : (s.giveEngineTurn).seed1 = s.seed1 := rfl
@[simp] theorem State.giveEngineTurn_seed2 (s : State) : (s.giveEngineTurn).seed2 = s.seed2 := rfl
@[simp] theorem State.giveEngineTurn_din0 (s : State) : (s.giveEngineTurn).din0 = s.din0 := rfl
@[simp] theorem State.giveEngineTurn_din1 (s : State) : (s.giveEngineTurn).din1 = s.din1 := rfl
@[simp] theorem State.giveEngineTurn_dout0 (s : State) : (s.giveEngineTurn).dout0 = s.dout0 := rfl
@[simp] theorem State.giveEngineTurn_dout1 (s : State) : (s.giveEngineTurn).dout1 = s.dout1 := rfl
@[simp] theorem State.giveEngineTurn_pidxLo (s : State) : (s.giveEngineTurn).pidxLo = s.pidxLo := rfl
@[simp] theorem State.giveEngineTurn_pidxHi (s : State) : (s.giveEngineTurn).pidxHi = s.pidxHi := rfl
@[simp] theorem State.giveEngineTurn_psizeLo (s : State) : (s.giveEngineTurn).psizeLo = s.psizeLo := rfl
@[simp] theorem State.giveEngineTurn_psizeHi (s : State) : (s.giveEngineTurn).psizeHi = s.psizeHi := rfl
@[simp] theorem State.giveEngineTurn_boffLo (s : State) : (s.giveEngineTurn).boffLo = s.boffLo := rfl
@[simp] theorem State.giveEngineTurn_boffHi (s : State) : (s.giveEngineTurn).boffHi = s.boffHi := rfl
@[simp] theorem State.giveEngineTurn_ctxIndex (s : State) : (s.giveEngineTurn).ctxIndex = s.ctxIndex := rfl
@[simp] theorem State.giveEngineTurn_ctrLo (s : State) : (s.giveEngineTurn).ctrLo = s.ctrLo := rfl
@[simp] theorem State.giveEngineTurn_ctrHi (s : State) : (s.giveEngineTurn).ctrHi = s.ctrHi := rfl
@[simp] theorem State.giveEngineTurn_evoMinor (s : State) : (s.giveEngineTurn).evoMinor = s.evoMinor := rfl
@[simp] theorem State.giveEngineTurn_evoMajor (s : State) : (s.giveEngineTurn).evoMajor = s.evoMajor := rfl
@[simp] theorem State.giveEngineTurn_rkOffset (s : State) : (s.giveEngineTurn).rkOffset = s.rkOffset := rfl
@[simp] theorem State.giveEngineTurn_rk (s : State) : (s.giveEngineTurn).rk = s.rk := rfl
@[simp] theorem State.giveEngineTurn_t1 (s : State) : (s.giveEngineTurn).t1 = s.t1 := rfl
@[simp] theorem State.giveEngineTurn_t2 (s : State) : (s.giveEngineTurn).t2 = s.t2 := rfl
@[simp] theorem State.giveEngineTurn_t3 (s : State) : (s.giveEngineTurn).t3 = s.t3 := rfl
@[simp] theorem State.giveEngineTurn_host (s : State) : (s.giveEngineTurn).host = s.host := rfl
@[simp] theorem State.giveEngineTurn_sched (s : State) : (s.giveEngineTurn).sched = if s.turn = some .engine then s.sched else .engine :: s.sched := rfl
@[simp] theorem State.giveEngineTurn_resp (s : State) : (s.giveEngineTurn).resp = s.resp := rfl
@[simp] theorem State.giveEngineTurn_draws (s : State) : (s.giveEngineTurn).draws = s.draws := rfl

/-! ### `State.endAccess`: an access off the host's queue -/

@[simp] theorem State.endAccess_busy (s : State) : (s.endAccess).busy = s.busy := rfl
@[simp] theorem State.endAccess_cmd (s : State) : (s.endAccess).cmd = s.cmd := rfl
@[simp] theorem State.endAccess_err (s : State) : (s.endAccess).err = s.err := rfl
@[simp] theorem State.endAccess_errCode (s : State) : (s.endAccess).errCode = s.errCode := rfl
@[simp] theorem State.endAccess_keysValid (s : State) : (s.endAccess).keysValid = s.keysValid := rfl
@[simp] theorem State.endAccess_t1Valid (s : State) : (s.endAccess).t1Valid = s.t1Valid := rfl
@[simp] theorem State.endAccess_t2Valid (s : State) : (s.endAccess).t2Valid = s.t2Valid := rfl
@[simp] theorem State.endAccess_t3Valid (s : State) : (s.endAccess).t3Valid = s.t3Valid := rfl
@[simp] theorem State.endAccess_key0 (s : State) : (s.endAccess).key0 = s.key0 := rfl
@[simp] theorem State.endAccess_key1 (s : State) : (s.endAccess).key1 = s.key1 := rfl
@[simp] theorem State.endAccess_key2 (s : State) : (s.endAccess).key2 = s.key2 := rfl
@[simp] theorem State.endAccess_seed0 (s : State) : (s.endAccess).seed0 = s.seed0 := rfl
@[simp] theorem State.endAccess_seed1 (s : State) : (s.endAccess).seed1 = s.seed1 := rfl
@[simp] theorem State.endAccess_seed2 (s : State) : (s.endAccess).seed2 = s.seed2 := rfl
@[simp] theorem State.endAccess_din0 (s : State) : (s.endAccess).din0 = s.din0 := rfl
@[simp] theorem State.endAccess_din1 (s : State) : (s.endAccess).din1 = s.din1 := rfl
@[simp] theorem State.endAccess_dout0 (s : State) : (s.endAccess).dout0 = s.dout0 := rfl
@[simp] theorem State.endAccess_dout1 (s : State) : (s.endAccess).dout1 = s.dout1 := rfl
@[simp] theorem State.endAccess_pidxLo (s : State) : (s.endAccess).pidxLo = s.pidxLo := rfl
@[simp] theorem State.endAccess_pidxHi (s : State) : (s.endAccess).pidxHi = s.pidxHi := rfl
@[simp] theorem State.endAccess_psizeLo (s : State) : (s.endAccess).psizeLo = s.psizeLo := rfl
@[simp] theorem State.endAccess_psizeHi (s : State) : (s.endAccess).psizeHi = s.psizeHi := rfl
@[simp] theorem State.endAccess_boffLo (s : State) : (s.endAccess).boffLo = s.boffLo := rfl
@[simp] theorem State.endAccess_boffHi (s : State) : (s.endAccess).boffHi = s.boffHi := rfl
@[simp] theorem State.endAccess_ctxIndex (s : State) : (s.endAccess).ctxIndex = s.ctxIndex := rfl
@[simp] theorem State.endAccess_ctrLo (s : State) : (s.endAccess).ctrLo = s.ctrLo := rfl
@[simp] theorem State.endAccess_ctrHi (s : State) : (s.endAccess).ctrHi = s.ctrHi := rfl
@[simp] theorem State.endAccess_evoMinor (s : State) : (s.endAccess).evoMinor = s.evoMinor := rfl
@[simp] theorem State.endAccess_evoMajor (s : State) : (s.endAccess).evoMajor = s.evoMajor := rfl
@[simp] theorem State.endAccess_rkOffset (s : State) : (s.endAccess).rkOffset = s.rkOffset := rfl
@[simp] theorem State.endAccess_rk (s : State) : (s.endAccess).rk = s.rk := rfl
@[simp] theorem State.endAccess_t1 (s : State) : (s.endAccess).t1 = s.t1 := rfl
@[simp] theorem State.endAccess_t2 (s : State) : (s.endAccess).t2 = s.t2 := rfl
@[simp] theorem State.endAccess_t3 (s : State) : (s.endAccess).t3 = s.t3 := rfl
@[simp] theorem State.endAccess_host (s : State) : (s.endAccess).host = s.host.tail := rfl
@[simp] theorem State.endAccess_sched (s : State) : (s.endAccess).sched = s.sched := rfl
@[simp] theorem State.endAccess_resp (s : State) : (s.endAccess).resp = s.resp := rfl
@[simp] theorem State.endAccess_draws (s : State) : (s.endAccess).draws = s.draws := rfl

/-! ### `State.hostRead`: a host read (20_memory.md R56) -/

@[simp] theorem State.hostRead_busy (s : State) (off : Nat) : (s.hostRead off).busy = s.busy := rfl
@[simp] theorem State.hostRead_cmd (s : State) (off : Nat) : (s.hostRead off).cmd = s.cmd := rfl
@[simp] theorem State.hostRead_err (s : State) (off : Nat) : (s.hostRead off).err = s.err := rfl
@[simp] theorem State.hostRead_errCode (s : State) (off : Nat) : (s.hostRead off).errCode = s.errCode := rfl
@[simp] theorem State.hostRead_keysValid (s : State) (off : Nat) : (s.hostRead off).keysValid = s.keysValid := rfl
@[simp] theorem State.hostRead_t1Valid (s : State) (off : Nat) : (s.hostRead off).t1Valid = s.t1Valid := rfl
@[simp] theorem State.hostRead_t2Valid (s : State) (off : Nat) : (s.hostRead off).t2Valid = s.t2Valid := rfl
@[simp] theorem State.hostRead_t3Valid (s : State) (off : Nat) : (s.hostRead off).t3Valid = s.t3Valid := rfl
@[simp] theorem State.hostRead_key0 (s : State) (off : Nat) : (s.hostRead off).key0 = s.key0 := rfl
@[simp] theorem State.hostRead_key1 (s : State) (off : Nat) : (s.hostRead off).key1 = s.key1 := rfl
@[simp] theorem State.hostRead_key2 (s : State) (off : Nat) : (s.hostRead off).key2 = s.key2 := rfl
@[simp] theorem State.hostRead_seed0 (s : State) (off : Nat) : (s.hostRead off).seed0 = s.seed0 := rfl
@[simp] theorem State.hostRead_seed1 (s : State) (off : Nat) : (s.hostRead off).seed1 = s.seed1 := rfl
@[simp] theorem State.hostRead_seed2 (s : State) (off : Nat) : (s.hostRead off).seed2 = s.seed2 := rfl
@[simp] theorem State.hostRead_din0 (s : State) (off : Nat) : (s.hostRead off).din0 = s.din0 := rfl
@[simp] theorem State.hostRead_din1 (s : State) (off : Nat) : (s.hostRead off).din1 = s.din1 := rfl
@[simp] theorem State.hostRead_dout0 (s : State) (off : Nat) : (s.hostRead off).dout0 = s.dout0 := rfl
@[simp] theorem State.hostRead_dout1 (s : State) (off : Nat) : (s.hostRead off).dout1 = s.dout1 := rfl
@[simp] theorem State.hostRead_pidxLo (s : State) (off : Nat) : (s.hostRead off).pidxLo = s.pidxLo := rfl
@[simp] theorem State.hostRead_pidxHi (s : State) (off : Nat) : (s.hostRead off).pidxHi = s.pidxHi := rfl
@[simp] theorem State.hostRead_psizeLo (s : State) (off : Nat) : (s.hostRead off).psizeLo = s.psizeLo := rfl
@[simp] theorem State.hostRead_psizeHi (s : State) (off : Nat) : (s.hostRead off).psizeHi = s.psizeHi := rfl
@[simp] theorem State.hostRead_boffLo (s : State) (off : Nat) : (s.hostRead off).boffLo = s.boffLo := rfl
@[simp] theorem State.hostRead_boffHi (s : State) (off : Nat) : (s.hostRead off).boffHi = s.boffHi := rfl
@[simp] theorem State.hostRead_ctxIndex (s : State) (off : Nat) : (s.hostRead off).ctxIndex = s.ctxIndex := rfl
@[simp] theorem State.hostRead_ctrLo (s : State) (off : Nat) : (s.hostRead off).ctrLo = s.ctrLo := rfl
@[simp] theorem State.hostRead_ctrHi (s : State) (off : Nat) : (s.hostRead off).ctrHi = s.ctrHi := rfl
@[simp] theorem State.hostRead_evoMinor (s : State) (off : Nat) : (s.hostRead off).evoMinor = s.evoMinor := rfl
@[simp] theorem State.hostRead_evoMajor (s : State) (off : Nat) : (s.hostRead off).evoMajor = s.evoMajor := rfl
@[simp] theorem State.hostRead_rkOffset (s : State) (off : Nat) : (s.hostRead off).rkOffset = s.rkOffset := rfl
@[simp] theorem State.hostRead_rk (s : State) (off : Nat) : (s.hostRead off).rk = s.rk := rfl
@[simp] theorem State.hostRead_t1 (s : State) (off : Nat) : (s.hostRead off).t1 = s.t1 := rfl
@[simp] theorem State.hostRead_t2 (s : State) (off : Nat) : (s.hostRead off).t2 = s.t2 := rfl
@[simp] theorem State.hostRead_t3 (s : State) (off : Nat) : (s.hostRead off).t3 = s.t3 := rfl
@[simp] theorem State.hostRead_host (s : State) (off : Nat) : (s.hostRead off).host = s.host := rfl
@[simp] theorem State.hostRead_sched (s : State) (off : Nat) : (s.hostRead off).sched = s.sched := rfl
@[simp] theorem State.hostRead_resp (s : State) (off : Nat) : (s.hostRead off).resp = .data (s.readWord off) := rfl
@[simp] theorem State.hostRead_draws (s : State) (off : Nat) : (s.hostRead off).draws = if s.readIsOpen off then s.draws + 1 else s.draws := rfl

end Sys2Proof.Machine
end

