-- ==== Sys2Proof/Laws/Ops.lean ====
section
/-! SUPPORT. For each shared operation one lemma that says once everything it can do: the window write, the register write, the
acceptance of a command, the bus access, the host's turn, the step. Later proofs take these apart instead of unfolding the
operations. -/

namespace Sys2Proof.Machine

/-! ### Commands -/

@[simp] theorem exec_nop (s : State) : exec .nop s = .next s.finish := rfl
@[simp] theorem exec_keyExpand (s : State) :
    exec .keyExpand s = .next (s.setKeys (keyExpand s.key0 s.key1 s.key2)).finish := rfl
@[simp] theorem exec_genTable1 (s : State) : exec .genTable1 s = .next (s.setTable .t1 (permGen s.seed)).finish := rfl
@[simp] theorem exec_genTable2 (s : State) : exec .genTable2 s = .next (s.setTable .t2 (permGen s.seed)).finish := rfl
@[simp] theorem exec_genTable3 (s : State) : exec .genTable3 s = .next (s.setTable .t3 (permGen s.seed)).finish := rfl
@[simp] theorem exec_encCtr (s : State) :
    exec .encCtr s = .next ((((s.setDout (s.din0 ^^^ s.ctrKeystream.1) (s.din1 ^^^ s.ctrKeystream.2)).setCtr
      (s.ctr + 1)).evolve).advanceOffset).finish := rfl
@[simp] theorem exec_encPos (s : State) :
    exec .encPos s = .next ((s.setDout (s.din0 ^^^ s.posKeystream.1) (s.din1 ^^^ s.posKeystream.2)).evolve).finish := rfl
@[simp] theorem exec_resetCtr (s : State) : exec .resetCtr s = .next s.rewind.finish := rfl

/-- Whether the minor counter fires depends on `EVO_MINOR` alone. -/
theorem minorFires_iff (s : State) : s.minorFires = true ↔ 2000 ≤ (s.evoMinor + 1).toNat := by
  simp [State.minorFires]

/-- Table2 is recombined exactly when both counters have reached their limits. -/
theorem majorFires_iff (s : State) :
    s.majorFires = true ↔ 2000 ≤ (s.evoMinor + 1).toNat ∧ 4000000 ≤ (s.evoMajor + 1).toNat := by
  simp [State.majorFires, State.minorFires]

/-- The evolution is one of three: no recombination, Table1 alone, or both tables (43_stream_transform.md R143). -/
theorem evolve_cases (s : State) :
    ((s.evoMinor + 1).toNat < 2000 ∧
      s.evolve = { s with evoMinor := s.evoMinor + 1, evoMajor := s.evoMajor + 1 }) ∨
    (2000 ≤ (s.evoMinor + 1).toNat ∧ (s.evoMajor + 1).toNat < 4000000 ∧
      s.evolve = { s with evoMinor := 0, evoMajor := s.evoMajor + 1, t1 := compose s.t2 s.t1 }) ∨
    (2000 ≤ (s.evoMinor + 1).toNat ∧ 4000000 ≤ (s.evoMajor + 1).toNat ∧
      s.evolve = { s with evoMinor := 0, evoMajor := 0, t1 := compose s.t2 s.t1, t2 := compose s.t3 s.t2 }) := by
  by_cases h1 : 2000 ≤ (s.evoMinor + 1).toNat
  · have m1 : s.minorFires = true := (minorFires_iff s).2 h1
    by_cases h2 : 4000000 ≤ (s.evoMajor + 1).toNat
    · have m2 : s.majorFires = true := (majorFires_iff s).2 ⟨h1, h2⟩
      exact .inr (.inr ⟨h1, h2, by simp only [State.evolve, m1, m2, if_true]⟩)
    · have m2 : s.majorFires = false := Bool.eq_false_iff.2 fun h => h2 ((majorFires_iff s).1 h).2
      exact .inr (.inl ⟨h1, by omega, by simp only [State.evolve, m1, m2, if_true, Bool.false_eq_true, if_false]⟩)
  · have m1 : s.minorFires = false := Bool.eq_false_iff.2 fun h => h1 ((minorFires_iff s).1 h)
    have m2 : s.majorFires = false := Bool.eq_false_iff.2 fun h => h1 ((majorFires_iff s).1 h).1
    exact .inl ⟨by omega, by simp only [State.evolve, m1, m2, Bool.false_eq_true, if_false]⟩

/-! ### The context window -/

/-- A window write is refused with an error record, or stores. -/
theorem ctxWrite_cases (s : State) (i : Byte) (v : Word) :
    (∃ e, ctxWriteError i v = some e ∧ s.ctxWrite i v = s.raise e) ∨
      (ctxWriteError i v = none ∧ s.ctxWrite i v = s.ctxStore i v) := by
  cases h : ctxWriteError i v with
  | none => exact .inr ⟨rfl, by simp [State.ctxWrite, h]⟩
  | some e => exact .inl ⟨e, rfl, by simp [State.ctxWrite, h]⟩

/-- The index map, as ranges of the index. -/
theorem ctxSlot_cases (i : Byte) :
    (i = 0x00 ∧ ctxSlot i = .ctrLo) ∨ (i = 0x01 ∧ ctxSlot i = .ctrHi) ∨ (i = 0x02 ∧ ctxSlot i = .evoMinor) ∨
    (i = 0x03 ∧ ctxSlot i = .evoMajor) ∨ (i = 0x04 ∧ ctxSlot i = .rkOffset) ∨
    (∃ k : Fin 26, i.toNat = 0x10 + k.val ∧ ctxSlot i = .roundKey k) ∨
    (∃ w : Fin 64, i.toNat = 0x40 + w.val ∧ ctxSlot i = .tableWord .t1 w) ∨
    (∃ w : Fin 64, i.toNat = 0x80 + w.val ∧ ctxSlot i = .tableWord .t2 w) ∨
    (∃ w : Fin 64, i.toNat = 0xC0 + w.val ∧ ctxSlot i = .tableWord .t3 w) ∨
    (((0x05 ≤ i.toNat ∧ i.toNat ≤ 0x0F) ∨ (0x2A ≤ i.toNat ∧ i.toNat ≤ 0x3F)) ∧ ctxSlot i = .reserved) := by
  have hi := i.isLt
  by_cases h0 : i = 0x00; · exact .inl ⟨h0, by subst h0; rfl⟩
  by_cases h1 : i = 0x01; · exact .inr (.inl ⟨h1, by subst h1; rfl⟩)
  by_cases h2 : i = 0x02; · exact .inr (.inr (.inl ⟨h2, by subst h2; rfl⟩))
  by_cases h3 : i = 0x03; · exact .inr (.inr (.inr (.inl ⟨h3, by subst h3; rfl⟩)))
  by_cases h4 : i = 0x04; · exact .inr (.inr (.inr (.inr (.inl ⟨h4, by subst h4; rfl⟩))))
  have n0 : i.toNat ≠ 0 := fun h => h0 (BitVec.eq_of_toNat_eq h)
  have n1 : i.toNat ≠ 1 := fun h => h1 (BitVec.eq_of_toNat_eq h)
  have n2 : i.toNat ≠ 2 := fun h => h2 (BitVec.eq_of_toNat_eq h)
  have n3 : i.toNat ≠ 3 := fun h => h3 (BitVec.eq_of_toNat_eq h)
  have n4 : i.toNat ≠ 4 := fun h => h4 (BitVec.eq_of_toNat_eq h)
  refine .inr (.inr (.inr (.inr (.inr ?_))))
  by_cases hk : 0x10 ≤ i.toNat ∧ i.toNat ≤ 0x29
  · exact .inl ⟨⟨i.toNat - 0x10, by omega⟩, by simp; omega, by simp [ctxSlot, n0, n1, n2, n3, n4, hk]⟩
  by_cases ht : 0x40 ≤ i.toNat
  · have hn : ¬ i.toNat ≤ 41 := by omega
    have h16 : 16 ≤ i.toNat := by omega
    by_cases t1 : (i.toNat - 0x40) / 64 = 0
    · exact .inr (.inl ⟨⟨(i.toNat - 0x40) % 64, by omega⟩, by simp; omega, by
        simp [ctxSlot, n0, n1, n2, n3, n4, hn, ht, t1]⟩)
    by_cases t2 : (i.toNat - 0x40) / 64 = 1
    · exact .inr (.inr (.inl ⟨⟨(i.toNat - 0x40) % 64, by omega⟩, by simp; omega, by
        simp [ctxSlot, n0, n1, n2, n3, n4, hn, ht, t2]⟩))
    · exact .inr (.inr (.inr (.inl ⟨⟨(i.toNat - 0x40) % 64, by omega⟩, by simp; omega, by
        simp only [ctxSlot, n0, n1, n2, n3, n4, hk, ht, t1, t2, if_true, if_false, dite_false]⟩)))
  · exact .inr (.inr (.inr (.inr ⟨by omega, by simp only [ctxSlot, n0, n1, n2, n3, n4, hk, ht, if_false, dite_false]⟩)))

/-! ### Writes and acceptance -/

/-- A word at `CMD` is refused as illegal, refused as not ready, or starts its command. -/
theorem accept_cases (s : State) (v : Word) :
    ((∃ e, decode v = .error e) ∧ s.accept v = s.raise .illegalCmd) ∨
    (∃ i, decode v = .ok i ∧ isCipher i = true ∧ s.allValid = false ∧ s.accept v = s.raise .notReady) ∨
    (∃ i, decode v = .ok i ∧ (isCipher i = true → s.allValid = true) ∧ s.accept v = s.start v) := by
  cases h : decode v with
  | error e => exact .inl ⟨⟨e, rfl⟩, by simp [State.accept, h]⟩
  | ok i =>
    cases hc : isCipher i <;> cases ha : s.allValid
    · exact .inr (.inr ⟨i, rfl, by simp [hc], by simp [State.accept, h, hc]⟩)
    · exact .inr (.inr ⟨i, rfl, by simp [hc], by simp [State.accept, h, hc]⟩)
    · exact .inr (.inl ⟨i, rfl, hc, rfl, by simp [State.accept, h, hc, ha]⟩)
    · exact .inr (.inr ⟨i, rfl, by simp, by simp [State.accept, h, ha]⟩)

/-- A register's offset names that register. -/
@[simp] theorem regAt_offset (r : Reg) : regAt r.offset = some r := by cases r <;> rfl

/-- An offset that names a register is that register's. -/
theorem offset_of_regAt {off : Nat} {r : Reg} (h : regAt off = some r) : r.offset = off := by
  unfold regAt at h
  split at h <;> first | (cases h; rfl) | cases h

/-- A host write is ignored, refused with `BUSY`, or stored. -/
theorem writeWord_cases (s : State) (off : Nat) (v : Word) :
    (regAt off = none ∧ s.writeWord off v = s) ∨
    (∃ r, regAt off = some r ∧ r.gated = true ∧ s.busy = true ∧ s.writeWord off v = s.raise .busy) ∨
    (∃ r, regAt off = some r ∧ (r.gated = true → s.busy = false) ∧ s.writeWord off v = s.storeReg r v) := by
  cases h : regAt off with
  | none => exact .inl ⟨rfl, by simp [State.writeWord, h]⟩
  | some r =>
    cases hg : r.gated <;> cases hb : s.busy
    · exact .inr (.inr ⟨r, rfl, by simp [hg], by simp [State.writeWord, h, hg]⟩)
    · exact .inr (.inr ⟨r, rfl, by simp [hg], by simp [State.writeWord, h, hg]⟩)
    · exact .inr (.inr ⟨r, rfl, by simp, by simp [State.writeWord, h, hb]⟩)
    · exact .inr (.inl ⟨r, rfl, hg, rfl, by simp [State.writeWord, h, hg, hb]⟩)

/-- An access the block takes does its effect; one outside the aperture is not the block's; any other is a bus error. -/
theorem busAccess_cases (s : State) (addr : Nat) (width : AccessWidth) (act : Nat → State) :
    (∃ off, off < 256 ∧ addr = Config.base + off ∧ width = .word ∧ off % 4 = 0 ∧
      s.busAccess addr width act = .next (act off)) ∨
    (∃ off, off < 256 ∧ addr = Config.base + off ∧ (width ≠ .word ∨ off % 4 ≠ 0) ∧
      s.busAccess addr width act = .fault (.busError off width)) ∨
    ((addr < Config.base ∨ Config.base + 256 ≤ addr) ∧
      s.busAccess addr width act = .next { s with resp := .notSelected }) := by
  by_cases h : Config.base ≤ addr ∧ addr < Config.base + 256
  · by_cases hw : width = .word ∧ (addr - Config.base) % 4 = 0
    · exact .inl ⟨addr - Config.base, by omega, by omega, hw.1, hw.2, by simp [State.busAccess, h, hw]⟩
    · refine .inr (.inl ⟨addr - Config.base, by omega, by omega, ?_, ?_⟩)
      · by_cases hw' : width = .word
        · exact .inr fun h' => hw ⟨hw', h'⟩
        · exact .inl hw'
      · simp [State.busAccess, h, hw]
  · exact .inr (.inr ⟨by omega, by simp [State.busAccess, h]⟩)

/-! ### The step -/

/-- Everything a step that answers a next state can have done. -/
theorem step_cases {s t : State} (h : step s = .next t) :
    (s.turn = none ∧ t = s) ∨
    (s.turn = some .engine ∧ s.busy = false ∧ t = s.endTurn) ∨
    (∃ i, s.isCompletionOf i ∧ exec i s.endTurn = .next t) ∨
    (s.turn = some .host ∧ s.host = [] ∧ t = s.endTurn) ∨
    (s.turn = some .host ∧ ∃ off < 256, off % 4 = 0 ∧ s.host.head? = some (.read (Config.base + off) .word) ∧
      t = s.endTurn.endAccess.hostRead off) ∨
    (s.turn = some .host ∧ ∃ off < 256, off % 4 = 0 ∧ ∃ v, s.host.head? = some (.write (Config.base + off) .word v) ∧
      t = s.endTurn.endAccess.hostWrite off v) ∨
    (s.turn = some .host ∧ (∃ op, s.host.head? = some op) ∧
      t = { s.endTurn.endAccess with resp := .notSelected }) ∨
    (s.turn = some .host ∧ s.host.head? = some .pollBusy ∧
      t = (if s.busy then s.endTurn else s.endTurn.endAccess).hostRead 0x04) ∨
    (∃ n, s.turn = some (.reset n) ∧ t = s.endTurn.hardwareReset n) := by
  unfold step at h
  split at h
  · rename_i ht; exact .inl ⟨ht, by simpa using h.symm⟩
  · rename_i ht
    refine .inr ?_
    unfold engineTurn complete at h
    cases hb : s.busy with
    | false => exact .inl ⟨ht, rfl, by simpa [hb] using h.symm⟩
    | true =>
      simp only [State.endTurn_busy, hb, if_true] at h
      split at h
      · rename_i i hi; exact .inr (.inl ⟨i, ⟨ht, hb, hi⟩, h⟩)
      · cases h
  · rename_i ht
    refine .inr (.inr (.inr ?_))
    unfold hostTurn at h
    split at h
    · rename_i hl; exact .inl ⟨ht, hl, by simpa using h.symm⟩
    · rename_i op rest hl
      have hd : s.host.head? = some op := by simp [show s.host = op :: rest from hl]
      refine .inr ?_
      cases op with
      | read addr width =>
        rcases busAccess_cases s.endTurn.endAccess addr width (fun off => s.endTurn.endAccess.hostRead off) with
          ⟨off, hoff, rfl, rfl, h4, hr⟩ | ⟨off, hoff, rfl, hw, hr⟩ | ⟨ha, hr⟩
        · exact .inl ⟨ht, off, hoff, h4, hd, by simpa [State.hostMove, hr] using h.symm⟩
        · simp [State.hostMove, hr] at h
        · exact .inr (.inr (.inl ⟨ht, ⟨_, hd⟩, by simpa [State.hostMove, hr] using h.symm⟩))
      | write addr width v =>
        rcases busAccess_cases s.endTurn.endAccess addr width (fun off => s.endTurn.endAccess.hostWrite off v) with
          ⟨off, hoff, rfl, rfl, h4, hr⟩ | ⟨off, hoff, rfl, hw, hr⟩ | ⟨ha, hr⟩
        · exact .inr (.inl ⟨ht, off, hoff, h4, v, hd, by simpa [State.hostMove, hr] using h.symm⟩)
        · simp [State.hostMove, hr] at h
        · exact .inr (.inr (.inl ⟨ht, ⟨_, hd⟩, by simpa [State.hostMove, hr] using h.symm⟩))
      | pollBusy =>
        refine .inr (.inr (.inr (.inl ⟨ht, hd, ?_⟩)))
        have := (by simpa [State.hostMove] using h.symm : t = _)
        rw [this]; by_cases hb : s.busy = true <;> simp [hb]
  · rename_i n ht
    exact .inr (.inr (.inr (.inr (.inr (.inr (.inr (.inr ⟨n, ht, by simpa using h.symm⟩)))))))

end Sys2Proof.Machine
end

