-- ==== Sys2Proof/Laws/PerInstr.lean ====
section
/-! SUPPORT. Statements made of every command as syntax, one lemma per constructor. `EncodeFields`: a command's word has the fields
the opcode map's columns give (30_encoding.md R84), and they pass the well-formedness checks (R82, R83, R86). -/

/-- The word of a command, field by field. -/
def Sys2Proof.Laws.EncodeFields.Statement (i : Sys2Proof.Instr) : Prop :=
  Sys2Proof.opField (Sys2Proof.encode i) = i.op ∧ Sys2Proof.tselField (Sys2Proof.encode i) = i.tsel ∧
    Sys2Proof.rsvField (Sys2Proof.encode i) = 0 ∧ i.wellFormed = true

theorem Sys2Proof.Laws.EncodeFields.nop : Sys2Proof.Laws.EncodeFields.Statement .nop := ⟨rfl, rfl, rfl, rfl⟩
theorem Sys2Proof.Laws.EncodeFields.keyExpand : Sys2Proof.Laws.EncodeFields.Statement .keyExpand := ⟨rfl, rfl, rfl, rfl⟩
theorem Sys2Proof.Laws.EncodeFields.genTable1 : Sys2Proof.Laws.EncodeFields.Statement .genTable1 := ⟨rfl, rfl, rfl, rfl⟩
theorem Sys2Proof.Laws.EncodeFields.genTable2 : Sys2Proof.Laws.EncodeFields.Statement .genTable2 := ⟨rfl, rfl, rfl, rfl⟩
theorem Sys2Proof.Laws.EncodeFields.genTable3 : Sys2Proof.Laws.EncodeFields.Statement .genTable3 := ⟨rfl, rfl, rfl, rfl⟩
theorem Sys2Proof.Laws.EncodeFields.encCtr : Sys2Proof.Laws.EncodeFields.Statement .encCtr := ⟨rfl, rfl, rfl, rfl⟩
theorem Sys2Proof.Laws.EncodeFields.encPos : Sys2Proof.Laws.EncodeFields.Statement .encPos := ⟨rfl, rfl, rfl, rfl⟩
theorem Sys2Proof.Laws.EncodeFields.resetCtr : Sys2Proof.Laws.EncodeFields.Statement .resetCtr := ⟨rfl, rfl, rfl, rfl⟩
end

