-- ==== Sys2Proof/Tests/Slice0.lean ====
section
/-! SUPPORT. Tests of one step or one function each, with expected values taken from spec/ (95_test_vectors.md names them V-…), and
for every statement with hypotheses a witness that meets them (`witness_…`), at the boundary values of its clauses. -/

namespace Sys2Proof.Tests

open Sys2Proof Sys2Proof.Machine

/-! ### States the tests start from -/

/-- `i` in flight after reset, the engine's turn next. -/
def running (i : Instr) : State := State.reset.start (encode i)

/-- All four valid bits set, nothing else changed since reset. -/
def ready : State := { State.reset with keysValid := true, t1Valid := true, t2Valid := true, t3Valid := true }

/-- Nothing in flight, the host about to make `ops`. -/
def asked (ops : List HostOp) : State := { State.reset with host := ops }

/-- `KEY_EXPAND` in flight, the host's turn next with `ops`. -/
def interrupted (ops : List HostOp) : State := { running .keyExpand with host := ops, sched := [.host] }

/-- The position of the published Speck vector (95_test_vectors.md P2), the tables the identity. -/
def speck : State :=
  { ready with
    rk := keyExpand 0x03020100 0x0B0A0908 0x13121110
    pidxLo := 0x65616E73, pidxHi := 0x20466174, psizeLo := 1 }

/-- The evolution counters set through the window (95_test_vectors.md section 7). -/
def counted (minor major : Word) : State := { ready with evoMinor := minor, evoMajor := major }

/-- The state of an outcome that has one. -/
def after : Host.Outcome State Fault Refusal → State
  | .next t => t
  | .fault _ => State.reset
  | .refused _ => State.reset

/-- The identity table is a permutation. -/
theorem identity_isPermutation : IsPermutation identityTable := by
  rw [IsPermutation, show lookup identityTable = id from funext lookup_identityTable]
  exact Function.bijective_id

/-- Tables all the identity are permutations. -/
theorem identities_arePermutations {s : State} (h1 : s.t1 = identityTable) (h2 : s.t2 = identityTable)
    (h3 : s.t3 = identityTable) : s.tablesArePermutations := by
  intro t
  cases t
  · show IsPermutation s.t1; rw [h1]; exact identity_isPermutation
  · show IsPermutation s.t2; rw [h2]; exact identity_isPermutation
  · show IsPermutation s.t3; rw [h3]; exact identity_isPermutation

/-! ### Well-formedness: one ill-formed term per check -/

theorem test_wellFormed_every_command :
    [Instr.nop, .keyExpand, .genTable1, .genTable2, .genTable3, .encCtr, .encPos, .resetCtr].all Instr.wellFormed = true := by
  decide

theorem test_illFormed_reserved_bit : rsvOk 0x200000 = false ∧ fieldsOk 0x03 0 0x200000 = false := by decide
theorem test_illFormed_opcode_six : opOk 0x06 = false ∧ fieldsOk 0x06 0 0 = false := by decide
theorem test_illFormed_genTable_without_table : tselOk 0x02 0 = false ∧ fieldsOk 0x02 0 0 = false := by decide
theorem test_illFormed_stray_table_select : tselOk 0x03 1 = false ∧ fieldsOk 0x03 1 0 = false := by decide

/-! ### Decoding: each word written out field by field, `RSV ++ TSEL ++ OP` (30_encoding.md R81, R84) -/

theorem test_decode_nop : decode (0b0000000000000000000000#22 ++ 0b00#2 ++ 0b00000000#8) = .ok .nop := rfl
theorem test_decode_keyExpand : decode (0b0000000000000000000000#22 ++ 0b00#2 ++ 0b00000001#8) = .ok .keyExpand := rfl
theorem test_decode_genTable1 : decode (0b0000000000000000000000#22 ++ 0b01#2 ++ 0b00000010#8) = .ok .genTable1 := rfl
theorem test_decode_genTable2 : decode (0b0000000000000000000000#22 ++ 0b10#2 ++ 0b00000010#8) = .ok .genTable2 := rfl
theorem test_decode_genTable3 : decode (0b0000000000000000000000#22 ++ 0b11#2 ++ 0b00000010#8) = .ok .genTable3 := rfl
theorem test_decode_encCtr : decode (0b0000000000000000000000#22 ++ 0b00#2 ++ 0b00000011#8) = .ok .encCtr := rfl
theorem test_decode_encPos : decode (0b0000000000000000000000#22 ++ 0b00#2 ++ 0b00000100#8) = .ok .encPos := rfl
theorem test_decode_resetCtr : decode (0b0000000000000000000000#22 ++ 0b00#2 ++ 0b00000101#8) = .ok .resetCtr := rfl

theorem test_decode_lowest_reserved_bit :
    decode (0b0000000000000000000001#22 ++ 0b01#2 ++ 0b00000010#8) = .error .reservedBitsSet := rfl

/-- The same word as the host's opcode table numbers it, and one bit more than a command word has. -/
theorem test_decodeTableWord :
    decodeTableWord 32 0x302 = some .genTable3 ∧ decodeTableWord 8 0x05 = some .resetCtr ∧
      decodeTableWord 32 0x6 = none ∧ decodeTableWord 40 0x100000000 = none := by decide

/-- The placed word is what the next step runs. -/
theorem test_fetched_word_runs :
    step (State.reset.withFetchWord 32 0x00000102) = exec .genTable1 (State.reset.start 0x00000102) := rfl

/-! ### The commands -/

/-- V-NOP-1: `STATUS` reads 1 with `NOP` in flight and 0 once it has completed. -/
theorem test_nop_status : (running .nop).statusWord = 1 ∧ (after (step (running .nop))).statusWord = 0 := by decide +kernel

/-- V-KS-2: the zero key. -/
theorem test_keyExpand_zero_key :
    (keyExpand 0 0 0)[3] = 0x0000000B ∧ (keyExpand 0 0 0)[5] = 0x0C0002D4 ∧ (keyExpand 0 0 0)[25] = 0x2900A984 := by
  decide +kernel

/-- V-KS-3 from the key registers, and the valid bit alone set (bit 8 of `STATUS`). -/
theorem test_keyExpand_ones :
    let t := after (step { running .keyExpand with key0 := 0xFFFFFFFF, key1 := 0xFFFFFFFF, key2 := 0xFFFFFFFF })
    t.rk[1] = 0x00000001 ∧ t.rk[25] = 0x84F4F36B ∧ t.statusWord = 0x100 := by decide +kernel

/-- The trace of V-GEN-2, steps 0 to 3 (41_table_generation.md R123): `j` is 18 and the swaps are 1 with 3, 2 with 9, 3 with 18. -/
theorem test_permGen_trace :
    let p := permGenSteps { State.reset with seed0 := 0x03020100, seed1 := 0x07060504, seed2 := 0x0B0A0908 }.seed 4
    p.2 = 18 ∧ lookup p.1 1 = 3 ∧ lookup p.1 2 = 9 ∧ lookup p.1 3 = 18 ∧ lookup p.1 18 = 1 := by decide +kernel

/-- V-GEN-2 whole, at three entries. -/
theorem test_genTable1_reference :
    let T := permGen { State.reset with seed0 := 0x03020100, seed1 := 0x07060504, seed2 := 0x0B0A0908 }.seed
    lookup T 0x00 = 0x46 ∧ lookup T 0x80 = 0x50 ∧ lookup T 0xFF = 0xAA := by decide +kernel

/-- Each `GEN_TABLE` sets its own valid bit (bits 9, 10 and 11 of `STATUS`) and leaves the other tables. -/
theorem test_genTable2_valid_bit :
    let t := after (step (running .genTable2))
    t.statusWord = 0x400 ∧ t.t1 = identityTable ∧ t.t3 = identityTable := ⟨by decide, rfl, rfl⟩

theorem test_genTable3_valid_bit :
    let t := after (step (running .genTable3))
    t.statusWord = 0x800 ∧ t.t1 = identityTable ∧ t.t2 = identityTable := ⟨by decide, rfl, rfl⟩

/-- V-CTR-5 with the identity Table1, so that `DOUT` is the vector's raw pair; the low half carries and the offset is 12. -/
theorem test_encCtr_carry :
    let t := after (exec .encCtr { speck with ctrLo := 0xFFFFFFFF, rkOffset := 5 })
    t.dout0 = 0x8441C837 ∧ t.dout1 = 0xA7D0C1BC ∧ t.ctrLo = 0 ∧ t.ctrHi = 1 ∧ t.rkOffset = 12 := by decide +kernel

/-- V-CTR-1's raw pair xored with `DIN`; V-EVO-4's counters. -/
theorem test_encCtr_block :
    let t := after (exec .encCtr { speck with din0 := 0x000004D2, din1 := 0x0000162E, evoMinor := 10, evoMajor := 3999999 })
    t.dout0 = 0xC504F02B ^^^ 0x000004D2 ∧ t.dout1 = 0xE830D557 ^^^ 0x0000162E ∧ t.evoMinor = 11 ∧ t.evoMajor = 4000000 := by
  decide +kernel

/-- V-POS-5: the published Speck64/96 ciphertext. -/
theorem test_encPos_known_answer :
    let t := after (exec .encPos speck)
    t.dout0 = 0x9F7952EC ∧ t.dout1 = 0x4175946C ∧ t.ctrLo = 0 ∧ t.rkOffset = 0 := by decide +kernel

/-- V-EVO-5 for `ENC_POS`: the major counter wraps at its increment, so Table2 is not recombined. -/
theorem test_encPos_major_wrap :
    let t := after (exec .encPos { counted 1999 0xFFFFFFFF with t3 := permGenStep (Vector.replicate 12 1) (identityTable, 0) 0 |>.1 })
    t.evoMinor = 0 ∧ t.evoMajor = 0 ∧ t.t2 = identityTable := by decide +kernel

/-- V-RST-1: the counters and the offset, with every valid bit kept. -/
theorem test_resetCtr_rewinds :
    let t := after (step { running .resetCtr with
      ctrLo := 5, evoMinor := 5, evoMajor := 5, rkOffset := 17, keysValid := true, t1Valid := true, t2Valid := true, t3Valid := true })
    t.ctrLo = 0 ∧ t.evoMinor = 0 ∧ t.evoMajor = 0 ∧ t.rkOffset = 0 ∧ t.statusWord = 0xF00 := by decide +kernel

/-! ### Datapath, window, errors -/

theorem test_arx_vectors : arx 0x12345678 0x9ABCDEF0 0xDEADBEEF = (0xCC62ADA9, 0x19845A2D) ∧
    arx 0xFFFFFFFF 0x00000001 0 = (0, 8) ∧ arxInv 0xCC62ADA9 0x19845A2D 0xDEADBEEF = (0x12345678, 0x9ABCDEF0) := by decide

theorem test_posNonce_vector : posNonce 3 1024 5 = 0xC28 := by decide

/-- V-WIN-2: the identity tables through the window. -/
theorem test_window_identity :
    State.reset.ctxRead 0x40 = 0x03020100 ∧ State.reset.ctxRead 0x7F = 0xFFFEFDFC ∧ State.reset.ctxRead 0x3F = 0 := by
  decide +kernel

/-- V-WIN-3 and V-ERR-9, V-ERR-10: the checks at their boundaries. -/
theorem test_window_checks :
    ctxWriteError 0x02 1999 = none ∧ ctxWriteError 0x02 2000 = some .illegalValue ∧ ctxWriteError 0x04 17 = none ∧
      ctxWriteError 0x04 18 = some .illegalValue ∧ ctxWriteError 0x04 0x100 = some .illegalValue ∧
      ctxWriteError 0x03 0xFFFFFFFF = none ∧ ctxWriteError 0x05 1 = some .badIndex ∧ ctxWriteError 0x3F 1 = some .badIndex ∧
      (State.reset.ctxWrite 0x05 1).statusWord = 0x52 := by decide

/-- V-ERR-1, V-ERR-6, V-ERR-11, V-ERR-12, V-ERR-16, as the `STATUS` word. -/
theorem test_error_codes :
    (State.reset.writeWord 0x08 0x00000006).statusWord = 0x12 ∧ (State.reset.writeWord 0x08 0x00000003).statusWord = 0x32 ∧
      ((State.reset.writeWord 0x08 0x00000003).writeWord 0x08 0x00000006).statusWord = 0x32 ∧
      ((State.reset.writeWord 0x08 0x00000003).writeWord 0x04 0x00000002).statusWord = 0 ∧
      ((State.reset.writeWord 0x08 0x00000001).writeWord 0x08 0x00000006).statusWord = 0x23 := by decide

/-- One host write, as a step. -/
theorem test_write_step : step (asked [wrOp .key0 0x12345678]) = .next { State.reset with key0 := 0x12345678, resp := .done } := by
  simp [step, State.turn, asked, State.reset, hostTurn, State.endTurn, State.hostMove, wrOp, State.busAccess, Config.aperture,
    Reg.offset, State.endAccess, State.hostWrite, State.writeWord, regAt, Reg.gated, State.storeReg]

/-- One access that is a bus error: a 32-bit read at offset 2. -/
theorem test_bus_error_step : step (asked [.read (Config.base + 2) .word]) = .fault (.busError 2 .word) := by
  simp [step, State.turn, asked, State.reset, hostTurn, State.endTurn, State.hostMove, State.busAccess, Config.aperture]

/-! ### Witnesses: the hypotheses of each statement that has some, met together -/

/-- A host write that the block takes is the step it is; used to show the steps of the witnesses below. -/
theorem step_asked {s : State} {r : Reg} {v : Word} {rest : List HostOp} (ht : s.turn = some .host)
    (hh : s.host = wrOp r v :: rest) : ∃ t, step s = .next t ∧ t = s.endTurn.endAccess.hostWrite r.offset v := by
  have h4 : r.offset < 256 ∧ r.offset % 4 = 0 := by cases r <;> decide
  have hh' : s.endTurn.host = wrOp r v :: rest := hh
  refine ⟨_, ?_, rfl⟩
  simp only [step, ht, hostTurn, hh', State.hostMove, wrOp, State.busAccess, Config.aperture]
  simp [h4.1, h4.2]

theorem witness_StepCompletesTheDecodedCommand :
    (running .nop).isCompletionOf .nop ∧ (running .resetCtr).isCompletionOf .resetCtr := ⟨⟨rfl, rfl, rfl⟩, ⟨rfl, rfl, rfl⟩⟩

theorem witness_WrittenCommandIsAcceptedThenCompleted :
    let s := { ready with host := [wrOp .cmd (encode .encPos), .pollBusy] }
    s.busy = false ∧ (isCipher .encPos = true → s.allValid = true) ∧ s.sched = [] ∧
      s.host = wrOp .cmd (encode .encPos) :: [.pollBusy] := ⟨rfl, fun _ => rfl, rfl, rfl⟩

/-- `NOP` needs no valid bit. -/
theorem witness_WrittenCommandIsAcceptedThenCompleted_nop :
    let s := asked [wrOp .cmd (encode .nop)]
    s.busy = false ∧ (isCipher .nop = true → s.allValid = true) ∧ s.sched = [] ∧ s.host = wrOp .cmd (encode .nop) :: [] :=
  ⟨rfl, fun h => Bool.noConfusion h, rfl, rfl⟩

theorem witness_EveryCommandCompletesAndKeepsItsInputs :
    ready.keysValid = true ∧ ready.t1Valid = true ∧ ready.t2Valid = true ∧ ready.t3Valid = true ∧
      isCipher .resetCtr = false := ⟨rfl, rfl, rfl, rfl, rfl⟩

/-- Both counters at their limit, the minor alone, neither. -/
theorem witness_EvolutionOrder :
    isCipher .encCtr = true ∧ isCipher .encPos = true ∧
      (let s := counted 1999 3999999; 2000 ≤ (s.evoMinor + 1).toNat ∧ 4000000 ≤ (s.evoMajor + 1).toNat) ∧
      (let s := counted 1999 3999998; 2000 ≤ (s.evoMinor + 1).toNat ∧ (s.evoMajor + 1).toNat < 4000000) ∧
      (let s := counted 1998 3999999; (s.evoMinor + 1).toNat < 2000) := by decide +kernel

theorem witness_EncCtrIsSelfInverse : ∃ s s' t : State, exec .encCtr s = .next t ∧
    s'.ctrLo = s.ctrLo ∧ s'.ctrHi = s.ctrHi ∧ s'.rkOffset = s.rkOffset ∧ s'.rk = s.rk ∧ s'.t1 = s.t1 ∧
    s'.din0 = t.dout0 ∧ s'.din1 = t.dout1 :=
  let t := after (exec .encCtr speck)
  ⟨speck, { speck with din0 := t.dout0, din1 := t.dout1 }, t, rfl, rfl, rfl, rfl, rfl, rfl, rfl, rfl⟩

/-- Positions (6, 1, 0) and (2^64 - 1, 2, 1), with equal inputs, and with the output as the second input. -/
theorem witness_EncPosDependsOnTheNonceAlone :
    let s := { ready with pidxLo := 6, psizeLo := 1 }
    let s' := { ready with pidxLo := 0xFFFFFFFF, pidxHi := 0xFFFFFFFF, psizeLo := 2, boffLo := 1 }
    let t := after (exec .encPos s)
    let s'' := { s' with din0 := t.dout0, din1 := t.dout1 }
    s'.positionNonce = s.positionNonce ∧ s'.rk = s.rk ∧ s'.t1 = s.t1 ∧ s'.din0 = s.din0 ∧ s'.din1 = s.din1 ∧
      s''.positionNonce = s.positionNonce ∧ s''.rk = s.rk ∧ s''.t1 = s.t1 ∧ s''.din0 = t.dout0 ∧ s''.din1 = t.dout1 :=
  ⟨by decide, rfl, rfl, rfl, rfl, by decide, rfl, rfl, rfl, rfl⟩

theorem witness_CounterCarriesAndWraps :
    { ready with ctrLo := 0xFFFFFFFE }.ctrLo ≠ 0xFFFFFFFF ∧ { ready with ctrLo := 0xFFFFFFFF }.ctrLo = 0xFFFFFFFF := by decide

theorem witness_OffsetCyclesThroughTheResidues :
    ready.rkOffset.toNat < 18 ∧ { ready with rkOffset := 17 }.rkOffset.toNat < 18 := by decide

theorem witness_EvolutionFollowsTheCallCount :
    (∀ i ∈ [Instr.encCtr, .encPos, .encCtr], isCipher i = true) ∧ ready.evoMinor = 0 ∧ ready.evoMajor = 0 := by decide

theorem witness_RoundTripWithinTheBound :
    (List.replicate 1999 ((1234 : Word), (5678 : Word))).length ≤ 1999 ∧ ready.ctrLo = 0 ∧ ready.ctrHi = 0 ∧
      ready.evoMinor = 0 ∧ ready.evoMajor = 0 ∧ ready.rkOffset = 0 :=
  ⟨by rw [List.length_replicate], rfl, rfl, rfl, rfl, rfl⟩

theorem witness_EncPosWithIdentityTableIsSpeck :
    speck.t1 = identityTable ∧ speck.din0 = 0 ∧ speck.din1 = 0 ∧ speck.rk = keyExpand 0x03020100 0x0B0A0908 0x13121110 ∧
      speck.packetIndex = 0x2046617465616E73 ∧ speck.packetSize = 1 ∧ speck.byteOffset = 0 :=
  ⟨rfl, rfl, rfl, rfl, by decide, by decide, by decide⟩

theorem witness_RotationsAndByteSwapMoveTheBits : (1 ≤ 1 ∧ 1 ≤ 31) ∧ 1 ≤ 31 ∧ 31 ≤ 31 := by decide

theorem witness_ComposeAppliesTheSecondTableFirst : IsPermutation identityTable ∧ IsPermutation identityTable :=
  ⟨identity_isPermutation, identity_isPermutation⟩

/-- Step 0 of the zero seed swaps entry 0 with itself. -/
theorem witness_PermGenIsAPermutation : (permGenStep (Vector.replicate 12 0) (identityTable, 0) 0).2 = BitVec.ofNat 8 0 := by
  decide +kernel

theorem witness_PermGenFollowsTheLoop :
    (0 % 12 < 12 ∧ 0 < 256) ∧ (255 % 12 < 12 ∧ 255 < 256) ∧
      (2 : Byte) ≠ BitVec.ofNat 8 0 ∧ (2 : Byte) ≠ (permGenSteps (Vector.replicate 12 0) 1).2 := by decide +kernel

theorem witness_KeyScheduleFollowsTheRecurrence : (0 < 26 ∧ 0 % 2 = 0) ∧ 25 < 26 ∧ 25 % 2 = 1 := by decide

/-- Reserved offsets, the first and the last. -/
theorem witness_ReadsReturnTheMapsRegister :
    State.reset.busy = false ∧ (∀ r : Reg, r.offset ≠ 0x0C) ∧ ∀ r : Reg, r.offset ≠ 0xFC :=
  ⟨rfl, fun r => by cases r <;> decide, fun r => by cases r <;> decide⟩

theorem witness_OpenReadsDrawAFreshValue :
    (running .nop).busy = true ∧ State.reset.busy = false ∧ (0x34 ≠ 0x38 ∧ 0x34 ≠ 0x3C ∧ 0x34 ≠ 0x64) := by decide

theorem witness_WritesStoreAsTheMapSays :
    State.reset.busy = false ∧ (∀ r : Reg, r.offset ≠ 0x68) ∧ ∀ r : Reg, r.offset ≠ 0x5C :=
  ⟨rfl, fun r => by cases r <;> decide, fun r => by cases r <;> decide⟩

theorem witness_RaisedErrorKeepsTheFirstCode : State.reset.err = false ∧ (State.reset.raise .busy).err = true := ⟨rfl, rfl⟩

/-- The first and the last gated offset, `STATUS`, and a reserved offset. -/
theorem witness_BusyRefusesGatedWrites :
    (running .nop).busy = true ∧
      (let gated := [0x08, 0x10, 0x14, 0x18, 0x20, 0x24, 0x28, 0x30, 0x34, 0x40, 0x44, 0x48, 0x4C, 0x50, 0x54, 0x60, 0x64]
      0x08 ∈ gated ∧ 0x64 ∈ gated ∧ 0x04 ∉ gated ∧ 0x68 ∉ gated) := by decide

theorem witness_IllegalWordIsRefused : State.reset.busy = false ∧ ∃ e, decode 0x00000006 = .error e := ⟨rfl, _, rfl⟩

/-- One valid bit missing, each in turn. -/
theorem witness_CipherCommandsNeedEveryValidBit :
    { ready with keysValid := false }.busy = false ∧ { ready with keysValid := false }.keysValid = false ∧
      { ready with t1Valid := false }.t1Valid = false ∧ { ready with t2Valid := false }.t2Valid = false ∧
      { ready with t3Valid := false }.t3Valid = false := ⟨rfl, rfl, rfl, rfl, rfl⟩

theorem witness_AcceptanceStartsTheCommand :
    ready.busy = false ∧ (isCipher .encCtr = true →
      ready.keysValid = true ∧ ready.t1Valid = true ∧ ready.t2Valid = true ∧ ready.t3Valid = true) ∧
      State.reset.busy = false ∧ (isCipher .genTable1 = true → State.reset.keysValid = true ∧ State.reset.t1Valid = true ∧
        State.reset.t2Valid = true ∧ State.reset.t3Valid = true) :=
  ⟨rfl, fun _ => ⟨rfl, rfl, rfl, rfl⟩, rfl, fun h => Bool.noConfusion h⟩

/-- Both ways to a bus error: a narrow access, and a 32-bit one between words; at both ends of the aperture. -/
theorem witness_BusErrorIsTheOnlyFault :
    (let s := asked [.write (Config.base + 0) .byte 0];
      s.turn = some .host ∧ 0 < 256 ∧ (AccessWidth.byte ≠ .word ∨ 0 % 4 ≠ 0) ∧
        (∃ v, s.host.head? = some (.write (Config.base + 0) .byte v))) ∧
    (let s := asked [.read (Config.base + 255) .word];
      s.turn = some .host ∧ 255 < 256 ∧ (AccessWidth.word ≠ .word ∨ 255 % 4 ≠ 0) ∧
        s.host.head? = some (.read (Config.base + 255) .word)) :=
  ⟨⟨rfl, by decide, by decide, _, rfl⟩, ⟨rfl, by decide, by decide, rfl⟩⟩

/-- The last word of the aperture, and the first byte past it. -/
theorem witness_HostAccessReachesItsRegister :
    (let s := asked [.read (Config.base + 0xFC) .word];
      s.turn = some .host ∧ 0xFC < 256 ∧ 0xFC % 4 = 0 ∧ s.host = .read (Config.base + 0xFC) .word :: []) ∧
    (let s := asked [.write (Config.base + 0x00) .word 7];
      s.turn = some .host ∧ 0x00 < 256 ∧ 0x00 % 4 = 0 ∧ s.host = .write (Config.base + 0x00) .word 7 :: []) ∧
    (let s := asked [.read (Config.base + 256) .half];
      s.turn = some .host ∧ s.host = .read (Config.base + 256) .half :: [] ∧
        (Config.base + 256 < Config.base ∨ Config.base + 256 ≤ Config.base + 256)) :=
  ⟨⟨rfl, by decide, by decide, rfl⟩, ⟨rfl, by decide, by decide, rfl⟩, ⟨rfl, rfl, .inr (Nat.le_refl _)⟩⟩

theorem witness_PollRepeatsWhileBusy :
    (let s := asked [.pollBusy]; s.turn = some .host ∧ s.host = .pollBusy :: [] ∧ s.busy = false) ∧
      (let s := interrupted [.pollBusy]; s.turn = some .host ∧ s.host = .pollBusy :: [] ∧ s.busy = true) :=
  ⟨⟨rfl, rfl, rfl⟩, ⟨rfl, rfl, rfl⟩⟩

/-- The four ends of the two reserved ranges. -/
theorem witness_WindowReadsTheContext :
    ∀ i ∈ ([0x05, 0x0F, 0x2A, 0x3F] : List Byte), (0x05 ≤ i.toNat ∧ i.toNat ≤ 0x0F) ∨ (0x2A ≤ i.toNat ∧ i.toNat ≤ 0x3F) := by
  decide

/-- Reserved, out of range, and stored: each at its boundary. -/
theorem witness_WindowWritesAreChecked :
    let reserved (i : Byte) : Prop := (0x05 ≤ i.toNat ∧ i.toNat ≤ 0x0F) ∨ (0x2A ≤ i.toNat ∧ i.toNat ≤ 0x3F)
    let outside (i : Byte) (v : Word) : Prop := i = 0x02 ∧ 2000 ≤ v.toNat ∨ i = 0x04 ∧ 18 ≤ v.toNat
    State.reset.busy = false ∧ reserved { State.reset with ctxIndex := 0x0F }.ctxIndex ∧
      outside { State.reset with ctxIndex := 0x02 }.ctxIndex 2000 ∧ outside { State.reset with ctxIndex := 0x04 }.ctxIndex 18 ∧
      (¬ reserved 0x02 ∧ ¬ outside 0x02 1999) ∧ (¬ reserved 0x04 ∧ ¬ outside 0x04 17) ∧
      (¬ reserved 0x10 ∧ ¬ outside 0x10 0xFFFFFFFF) ∧ (¬ reserved 0x40 ∧ ¬ outside 0x40 0) := by decide

theorem witness_WindowWriteIsReadBack :
    ctxWriteError 0x02 1999 = none ∧ ctxWriteError 0x04 17 = none ∧ ctxWriteError 0x29 0xFFFFFFFF = none ∧
      ctxWriteError 0xFF 0 = none ∧ (0xFF : Byte) ≠ 0xFE ∧ (ctxWriteError 0x04 18).isSome = true := by decide

theorem witness_WindowWriteFrame :
    (0x10 ≤ (0x10 : Byte).toNat ∧ (0x10 : Byte).toNat ≤ 0x29) ∧ (0x10 ≤ (0x29 : Byte).toNat ∧ (0x29 : Byte).toNat ≤ 0x29) ∧
      (0x40 ≤ (0x40 : Byte).toNat ∧ (0x7F : Byte).toNat < 0x80) ∧ (0x80 ≤ (0x80 : Byte).toNat ∧ (0xBF : Byte).toNat < 0xC0) ∧
      0xC0 ≤ (0xC0 : Byte).toNat := by decide

/-- The source at the top of both ranges, the words in the reverse order. -/
theorem witness_ImportCopiesTheContext :
    let t := { ready with rkOffset := 17, evoMinor := 1999 }
    t.rkOffset.toNat < 18 ∧ t.evoMinor.toNat < 2000 ∧ contextIndices.reverse.Perm contextIndices :=
  ⟨by decide, by decide, List.reverse_perm _⟩

theorem witness_HardwareResetValues :
    ∃ rest, { running .keyExpand with sched := [.reset 1, .host] }.sched = .reset 1 :: rest := ⟨_, rfl⟩

/-- States with the invariant: a cipher command in flight, and an error recorded, at the top of both ranges. -/
theorem running_encCtr_inv :
    ({ (ready.start (encode .encCtr)).raise .busy with rkOffset := 17, evoMinor := 1999 } : State).Inv where
  offset := by decide
  minor := by decide
  noError h := by cases h
  anError _ := ⟨.busy, rfl⟩
  legal _ := ⟨.encCtr, rfl, fun _ => rfl⟩

theorem witness_StepKeepsTheInvariant : ∃ s t : State, s.Inv ∧ step s = .next t ∧ s.busy = true :=
  ⟨_, _, running_encCtr_inv, rfl, rfl⟩

theorem witness_InvariantStepIsNeverRefused : ∃ s : State, s.Inv ∧ s.turn = some .engine := ⟨_, running_encCtr_inv, rfl⟩

theorem witness_AcceptedCommandCompletes : ∃ s : State, s.Inv ∧ s.busy = true := ⟨_, running_encCtr_inv, rfl⟩

theorem witness_EvolutionCountersStayInStep : ∃ s t : State, s.evolutionInStep ∧
    ¬ s.isWindowWrite (fun i => i = 0x02 ∨ i = 0x03) ∧ step s = .next t ∧ s.evoMajor = 3999999 :=
  ⟨{ running .encPos with evoMinor := 1999, evoMajor := 3999999 }, _, ⟨by decide, by decide⟩,
    fun h => Bool.noConfusion (h : State.isWindowWrite _ _).1, rfl, rfl⟩

theorem witness_TablesStayPermutations : ∃ s t : State, s.tablesArePermutations ∧
    ¬ s.isWindowWrite (fun i => 0x40 ≤ i.toNat) ∧ step s = .next t :=
  ⟨running .genTable1, _, identities_arePermutations rfl rfl rfl,
    fun h => Bool.noConfusion (h : State.isWindowWrite _ _).1, rfl⟩

theorem witness_OnlyAcceptanceSetsBusy :
    (∃ s t : State, step s = .next t ∧ s.busy = false ∧ t.busy = true) ∧
      ∃ s t : State, step s = .next t ∧ s.busy = true ∧ t.busy = false := by
  obtain ⟨t, h, e⟩ := step_asked (s := asked [wrOp .cmd (encode .nop)]) rfl rfl
  exact ⟨⟨_, t, h, rfl, by rw [e]; rfl⟩, running .nop, _, rfl, rfl, rfl⟩

theorem witness_OnlyTheRecordAndItsClearChangeTheError :
    (∃ s t : State, step s = .next t ∧ s.err ≠ t.err ∧ s.busy = true) ∧
      ∃ (s : State) (v : Word), s.isWriteTo .status v ∧ v.getLsbD 1 = true ∧ s.busy = true := by
  obtain ⟨t, h, e⟩ := step_asked (s := interrupted [wrOp .key0 1]) rfl rfl
  exact ⟨⟨_, t, h, by rw [e]; decide, rfl⟩, interrupted [wrOp .status 2], 2, ⟨rfl, rfl⟩, rfl, rfl⟩

/-- A completion and a window write set a valid bit; a cipher command is accepted. -/
theorem witness_ValidBitsAreSetAndClearedAsStated :
    (∃ s t : State, step s = .next t ∧ s.keysValid = false ∧ t.keysValid = true ∧ s.isCompletionOf .keyExpand) ∧
    (∃ s t : State, step s = .next t ∧ s.t3Valid = false ∧ t.t3Valid = true ∧ s.isWindowWrite fun i => 0xC0 ≤ i.toNat) ∧
    (∃ s t : State, step s = .next t ∧ s.busy = false ∧ t.busy = true ∧ t.cmd = encode .encCtr) ∧
    ¬ (running .keyExpand).isReset := by
  obtain ⟨t, h, e⟩ := step_asked (s := { asked [wrOp .ctxData 0] with ctxIndex := 0xC0 }) rfl rfl
  obtain ⟨u, hu, eu⟩ := step_asked (s := { ready with host := [wrOp .cmd (encode .encCtr)] }) rfl rfl
  refine ⟨⟨running .keyExpand, _, rfl, rfl, rfl, rfl, rfl, rfl⟩, ⟨_, t, h, rfl, by rw [e]; rfl, rfl, by decide, 0, rfl, rfl⟩,
    ⟨_, u, hu, rfl, by rw [eu]; rfl, by rw [eu]; rfl⟩, ?_⟩
  rintro ⟨n, hn⟩; cases hn

theorem witness_RoundKeysAndTableThreeAreWrittenOnlySo : ∃ s t : State, step s = .next t ∧ t.rk ≠ s.rk :=
  ⟨running .keyExpand, _, rfl, by decide +kernel⟩

theorem witness_OutputsAndInputsAreWrittenOnlySo :
    (∃ s t : State, step s = .next t ∧ t.dout0 ≠ s.dout0) ∧ ∃ s t : State, step s = .next t ∧ t.din0 ≠ s.din0 := by
  obtain ⟨t, h, e⟩ := step_asked (s := asked [wrOp .din0 7]) rfl rfl
  exact ⟨⟨{ running .encPos with din0 := 1 }, _, rfl, by decide +kernel⟩, _, t, h, by rw [e]; decide⟩

theorem witness_ResultDoesNotDependOnTiming :
    ∃ (s t : State), s.busy = true ∧ s.inFlight = .ok .keyExpand ∧ s.turn = some .host ∧ step s = .next t := by
  obtain ⟨t, h, _⟩ := step_asked (s := interrupted [wrOp .key0 1]) rfl rfl
  exact ⟨_, t, rfl, rfl, rfl, h⟩

end Sys2Proof.Tests
end

section
/-! `SubWord` byte by byte (40_datapath.md R106). -/

namespace Sys2Proof.Proofs
open Sys2Proof Sys2Proof.Machine

/-- The byte lanes are those of 00_scope.md R12; `subWord` assembles its word lane by lane. -/
theorem byteOf_subWord (T : Table) (w : Word) (k : Fin 4) :
    byteOf (subWord T w) k.val = lookup T (byteOf w k.val) := by
  unfold subWord
  match k with
  | 0 => exact byteOf_wordOf_0 ..
  | 1 => exact byteOf_wordOf_1 ..
  | 2 => exact byteOf_wordOf_2 ..
  | 3 => exact byteOf_wordOf_3 ..

/-- Each substituted byte is the byte itself, so the word is put together again from its own bytes. -/
theorem subWord_identityTable (w : Word) : subWord identityTable w = w := by
  simp only [subWord, lookup_identityTable, wordOf_byteOf]

/-- Settles O24, from the word's bytes and the identity table's entries. -/
theorem subWordSubstitutesEachByteInPlace : Obligations.SubWordSubstitutesEachByteInPlace :=
  ⟨byteOf_subWord, subWord_identityTable⟩

end Sys2Proof.Proofs
end

section
/-! The decoder against the encoder (30_encoding.md R84), for the statements that say which word a step accepted. -/

namespace Sys2Proof.Proofs
open Sys2Proof Sys2Proof.Machine

theorem encodeFields (i : Instr) : Laws.EncodeFields.Statement i := by
  cases i with
  | nop => exact Laws.EncodeFields.nop
  | keyExpand => exact Laws.EncodeFields.keyExpand
  | genTable1 => exact Laws.EncodeFields.genTable1
  | genTable2 => exact Laws.EncodeFields.genTable2
  | genTable3 => exact Laws.EncodeFields.genTable3
  | encCtr => exact Laws.EncodeFields.encCtr
  | encPos => exact Laws.EncodeFields.encPos
  | resetCtr => exact Laws.EncodeFields.resetCtr

theorem decode_encode (i : Instr) : decode (encode i) = .ok i := by cases i <;> rfl

theorem encode_injective {i j : Instr} (h : encode i = encode j) : i = j := by
  have hd := congrArg decode h
  rw [decode_encode, decode_encode] at hd
  exact Except.ok.inj hd

/-- The map's word is the only one that decodes to its command. -/
theorem eq_encode_of_decode {w : Word} {i : Instr} (h : decode w = .ok i) : w = encode i := by
  obtain ⟨hop, htsel, hrsv⟩ := fields_of_decode h
  obtain ⟨eop, etsel, ersv, -⟩ := encodeFields i
  exact word_eq_of_fields (hop.trans eop.symm) (htsel.trans etsel.symm) (hrsv.trans ersv.symm)

end Sys2Proof.Proofs
end

section
/-! The registers a host sees: reads, writes and the `STATUS` word (10_state.md R24; 20_memory.md R53, R56, R57). -/

namespace Sys2Proof.Proofs
open Sys2Proof Sys2Proof.Machine

theorem regAt_eq_none {off : Nat} (h : ∀ r : Reg, r.offset ≠ off) : regAt off = none := by
  cases hr : regAt off with
  | none => rfl
  | some r => exact absurd (offset_of_regAt hr) (h r)

theorem readWord_offset {s : State} {r : Reg} (h : s.busy = false ∨ r.openWhileBusy = false) :
    s.readWord r.offset = s.regValue r := by
  have hclosed : (s.busy && r.openWhileBusy) = false := by
    rcases h with h | h <;> simp [h]
  simp [State.readWord, hclosed]

theorem writeWord_offset {s : State} {r : Reg} (h : r.gated = true → s.busy = false) (v : Word) :
    s.writeWord r.offset v = s.storeReg r v := by
  have hpass : (r.gated && s.busy) = false := by
    cases hr : r.gated
    · rfl
    · exact h hr
  simp [State.writeWord, hpass]

/-- Settles O30, register by register from `readWord_offset`. -/
theorem readsReturnTheMapsRegister : Obligations.ReadsReturnTheMapsRegister := by
  refine ⟨fun s => ?_, fun s hb => ?_, fun s off h => ?_, fun s off => ⟨_, rfl⟩⟩
  · have always : ∀ r : Reg, r.openWhileBusy = false → s.readWord r.offset = s.regValue r :=
      fun r h => readWord_offset (.inr h)
    exact ⟨always .id rfl, always .status rfl, always .cmd rfl, always .key0 rfl, always .key1 rfl, always .key2 rfl,
      always .seed0 rfl, always .seed1 rfl, always .seed2 rfl, always .din0 rfl, always .din1 rfl, always .pidxLo rfl,
      always .pidxHi rfl, always .psizeLo rfl, always .psizeHi rfl, always .boffLo rfl, always .boffHi rfl,
      always .ctxIndex rfl⟩
  · have idle : ∀ r : Reg, s.readWord r.offset = s.regValue r := fun r => readWord_offset (.inl hb)
    exact ⟨idle .dout0, idle .dout1, idle .ctxData⟩
  · simp only [State.readWord, regAt_eq_none h]

/-- Settles O32, register by register from `writeWord_offset`. -/
theorem writesStoreAsTheMapSays : Obligations.WritesStoreAsTheMapSays := by
  refine ⟨fun s v hb => ?_, fun s v => writeWord_offset (r := .status) nofun v, fun s v => ?_, fun s off v h => ?_⟩
  · have idle : ∀ r : Reg, s.writeWord r.offset v = s.storeReg r v := fun r => writeWord_offset (fun _ => hb) v
    exact ⟨idle .cmd, idle .key0, idle .key1, idle .key2, idle .seed0, idle .seed1, idle .seed2, idle .din0, idle .din1,
      idle .pidxLo, idle .pidxHi, idle .psizeLo, idle .psizeHi, idle .boffLo, idle .boffHi, idle .ctxIndex, idle .ctxData⟩
  · exact ⟨writeWord_offset (r := .id) nofun v, writeWord_offset (r := .dout0) nofun v,
      writeWord_offset (r := .dout1) nofun v⟩
  · simp only [State.writeWord, regAt_eq_none h]

/-- `STATUS` bit by bit: the 12 assigned bits as 10_state.md R24 lists them, 0 in the reserved ones. -/
theorem getLsbD_statusWord (s : State) (i : Nat) : s.statusWord.getLsbD i =
    if i = 0 then s.busy else if i = 1 then s.err else if i < 4 then false else if i < 8 then s.errCode.getLsbD (i - 4)
    else if i = 8 then s.keysValid else if i = 9 then s.t1Valid else if i = 10 then s.t2Valid
    else if i = 11 then s.t3Valid else false := by
  by_cases h : 12 ≤ i
  · simp only [State.statusWord, BitVec.getLsbD_setWidth, BitVec.getLsbD_of_ge _ i h, Bool.and_false]
    simp only [show i ≠ 0 by omega, show i ≠ 1 by omega, show ¬ i < 4 by omega, show ¬ i < 8 by omega,
      show i ≠ 8 by omega, show i ≠ 9 by omega, show i ≠ 10 by omega, show i ≠ 11 by omega, if_false]
  · simp only [State.statusWord, bit, BitVec.getLsbD_setWidth, BitVec.getLsbD_append, BitVec.getLsbD_ofBool]
    interval_cases i <;> simp

/-- Settles O38, from the word's bits; a field of several bits is compared bit by bit. -/
theorem statusWordHasItsFields : Obligations.StatusWordHasItsFields := by
  intro s
  refine ⟨getLsbD_statusWord s 0, getLsbD_statusWord s 1, ?_, ?_, getLsbD_statusWord s 8, getLsbD_statusWord s 9,
    getLsbD_statusWord s 10, getLsbD_statusWord s 11, ?_⟩ <;>
    refine BitVec.eq_of_getLsbD_eq fun i hi => ?_ <;>
    rw [BitVec.getLsbD_extractLsb', getLsbD_statusWord]
  · simp [show 2 + i < 4 by omega, show 2 + i ≠ 1 by omega]
  · simp [hi, show ¬ 4 + i < 4 by omega, show 4 + i < 8 by omega, show 4 + i ≠ 1 by omega]
  · simp [show 12 + i ≠ 1 by omega, show ¬ 12 + i < 4 by omega, show ¬ 12 + i < 8 by omega, show 12 + i ≠ 8 by omega,
      show 12 + i ≠ 9 by omega, show 12 + i ≠ 10 by omega, show 12 + i ≠ 11 by omega]

end Sys2Proof.Proofs
end

section
/-! What completing a command and storing into the context window can do, as a short list of cases each. -/

namespace Sys2Proof.Proofs
open Sys2Proof Sys2Proof.Machine

/-- The command that generates a table (41_table_generation.md R121). -/
def genTable : TableId → Instr
  | .t1 => .genTable1
  | .t2 => .genTable2
  | .t3 => .genTable3

theorem genTable_injective {t t' : TableId} (h : genTable t = genTable t') : t = t' := by
  revert h; cases t <;> cases t' <;> decide

theorem exec_genTable (s : State) (t : TableId) :
    exec (genTable t) s = .next (s.setTable t (permGen s.seed)).finish := by
  cases t <;> rfl

/-- Everything the completion of a command can be, the output words of the cipher commands left open. -/
theorem exec_cases {i : Instr} {s u : State} (h : exec i s = .next u) :
    (i = .nop ∧ u = s.finish) ∨
    (i = .keyExpand ∧ u = (s.setKeys (keyExpand s.key0 s.key1 s.key2)).finish) ∨
    (∃ t, i = genTable t ∧ u = (s.setTable t (permGen s.seed)).finish) ∨
    (i = .encCtr ∧ ∃ d0 d1, u = (((s.setDout d0 d1).setCtr (s.ctr + 1)).evolve).advanceOffset.finish) ∨
    (i = .encPos ∧ ∃ d0 d1, u = ((s.setDout d0 d1).evolve).finish) ∨
    (i = .resetCtr ∧ u = s.rewind.finish) := by
  have generates : ∀ t, i = genTable t → ∃ t, i = genTable t ∧ u = (s.setTable t (permGen s.seed)).finish := by
    rintro t rfl
    rw [exec_genTable] at h
    cases h
    exact ⟨t, rfl, rfl⟩
  cases i with
  | nop => cases h; exact .inl ⟨rfl, rfl⟩
  | keyExpand => cases h; exact .inr (.inl ⟨rfl, rfl⟩)
  | genTable1 => exact .inr (.inr (.inl (generates .t1 rfl)))
  | genTable2 => exact .inr (.inr (.inl (generates .t2 rfl)))
  | genTable3 => exact .inr (.inr (.inl (generates .t3 rfl)))
  | encCtr => cases h; exact .inr (.inr (.inr (.inl ⟨rfl, _, _, rfl⟩)))
  | encPos => cases h; exact .inr (.inr (.inr (.inr (.inl ⟨rfl, _, _, rfl⟩))))
  | resetCtr => cases h; exact .inr (.inr (.inr (.inr (.inr ⟨rfl, rfl⟩))))

theorem exec_busy {i : Instr} {s u : State} (h : exec i s = .next u) : u.busy = false := by
  rcases exec_cases h with ⟨-, rfl⟩ | ⟨-, rfl⟩ | ⟨t, -, rfl⟩ | ⟨-, d0, d1, rfl⟩ | ⟨-, d0, d1, rfl⟩ | ⟨-, rfl⟩ <;> rfl

theorem exec_record {i : Instr} {s u : State} (h : exec i s = .next u) : u.err = s.err ∧ u.errCode = s.errCode := by
  rcases exec_cases h with ⟨-, rfl⟩ | ⟨-, rfl⟩ | ⟨t, -, rfl⟩ | ⟨-, d0, d1, rfl⟩ | ⟨-, d0, d1, rfl⟩ | ⟨-, rfl⟩ <;>
    simp

theorem exec_din {i : Instr} {s u : State} (h : exec i s = .next u) : u.din0 = s.din0 ∧ u.din1 = s.din1 := by
  rcases exec_cases h with ⟨-, rfl⟩ | ⟨-, rfl⟩ | ⟨t, -, rfl⟩ | ⟨-, d0, d1, rfl⟩ | ⟨-, d0, d1, rfl⟩ | ⟨-, rfl⟩ <;>
    simp

/-- The window indices of the round keys (45_context_control.md R175). -/
def inKeyRegion (i : Byte) : Prop := 0x10 ≤ i.toNat ∧ i.toNat ≤ 0x29

/-- The window indices of a table (45_context_control.md R175). -/
def inTableRegion : TableId → Byte → Prop
  | .t1, i => 0x40 ≤ i.toNat ∧ i.toNat < 0x80
  | .t2, i => 0x80 ≤ i.toNat ∧ i.toNat < 0xC0
  | .t3, i => 0xC0 ≤ i.toNat

theorem le_of_inTableRegion {t : TableId} {i : Byte} (h : inTableRegion t i) : 0x40 ≤ i.toNat := by
  cases t <;> simp only [inTableRegion] at h <;> omega

theorem ctxSlot_of_inKeyRegion {i : Byte} (h : inKeyRegion i) : ∃ k, ctxSlot i = .roundKey k := by
  obtain ⟨hlo, hhi⟩ := h
  rcases ctxSlot_cases i with ⟨hi, -⟩ | ⟨hi, -⟩ | ⟨hi, -⟩ | ⟨hi, -⟩ | ⟨hi, -⟩ | ⟨k, -, hk⟩ | ⟨w, hi, -⟩ | ⟨w, hi, -⟩ |
    ⟨w, hi, -⟩ | ⟨hi, -⟩
  case inr.inr.inr.inr.inr.inl => exact ⟨k, hk⟩
  -- every other slot's indices lie outside the region
  all_goals bv_omega

theorem ctxSlot_of_inTableRegion {t : TableId} {i : Byte} (h : inTableRegion t i) : ∃ w, ctxSlot i = .tableWord t w := by
  cases t <;> unfold inTableRegion at h <;>
    rcases ctxSlot_cases i with ⟨hi, -⟩ | ⟨hi, -⟩ | ⟨hi, -⟩ | ⟨hi, -⟩ | ⟨hi, -⟩ | ⟨k, hi, -⟩ | ⟨w, hi, hw⟩ | ⟨w, hi, hw⟩ |
      ⟨w, hi, hw⟩ | ⟨hi, -⟩
  case t1.inr.inr.inr.inr.inr.inr.inl => exact ⟨w, hw⟩
  case t2.inr.inr.inr.inr.inr.inr.inr.inl => exact ⟨w, hw⟩
  case t3.inr.inr.inr.inr.inr.inr.inr.inr.inl => exact ⟨w, hw⟩
  -- every other slot's indices lie outside the region
  all_goals bv_omega

/-- Everything a store into the window can do (45_context_control.md R178). A counter half, or nothing at a reserved index, comes
first: no invariant speaks of the counter. -/
theorem ctxStore_cases (s : State) (i : Byte) (v : Word) :
    (∃ lo hi, s.ctxStore i v = { s with ctrLo := lo, ctrHi := hi }) ∨
    (i = 0x02 ∧ s.ctxStore i v = { s with evoMinor := v }) ∨
    (i = 0x03 ∧ s.ctxStore i v = { s with evoMajor := v }) ∨
    (i = 0x04 ∧ s.ctxStore i v = { s with rkOffset := byteOf v 0 }) ∨
    (∃ k : Fin 26, inKeyRegion i ∧ s.ctxStore i v = s.setKeys (s.rk.set k v)) ∨
    (∃ t w, inTableRegion t i ∧ s.ctxStore i v = s.setTable t (putTableWord (s.table t) w v)) := by
  rcases ctxSlot_cases i with ⟨-, h⟩ | ⟨-, h⟩ | ⟨hi, h⟩ | ⟨hi, h⟩ | ⟨hi, h⟩ | ⟨k, hi, h⟩ | ⟨w, hi, h⟩ | ⟨w, hi, h⟩ |
    ⟨w, hi, h⟩ | ⟨-, h⟩ <;> unfold State.ctxStore <;> rw [h]
  · exact .inl ⟨v, s.ctrHi, rfl⟩
  · exact .inl ⟨s.ctrLo, v, rfl⟩
  · exact .inr (.inl ⟨hi, rfl⟩)
  · exact .inr (.inr (.inl ⟨hi, rfl⟩))
  · exact .inr (.inr (.inr (.inl ⟨hi, rfl⟩)))
  · exact .inr (.inr (.inr (.inr (.inl ⟨k, by unfold inKeyRegion; omega, rfl⟩))))
  · exact .inr (.inr (.inr (.inr (.inr ⟨.t1, w, by unfold inTableRegion; omega, rfl⟩))))
  · exact .inr (.inr (.inr (.inr (.inr ⟨.t2, w, by unfold inTableRegion; omega, rfl⟩))))
  · exact .inr (.inr (.inr (.inr (.inr ⟨.t3, w, by unfold inTableRegion; omega, rfl⟩))))
  · exact .inl ⟨s.ctrLo, s.ctrHi, rfl⟩

end Sys2Proof.Proofs
end

section
/-! What one step does to the block: one relation, `BlockEffect`, with a constructor for each kind of step that the rules of
10_state.md tell apart. The model's own four fields (the host's queue, the schedule, the port's answer, the draw count) are set
aside by `SameBlock`. -/

namespace Sys2Proof.Proofs
open Sys2Proof Sys2Proof.Machine

/-- `t` is `u` in every field the spec gives the block. -/
def SameBlock (u t : State) : Prop :=
  ∃ (ops : List HostOp) (turns : List Agent) (port : BusResponse) (n : Nat),
    t = { u with host := ops, sched := turns, resp := port, draws := n }

/-- The host's access answered. -/
theorem sameBlock_answered (u : State) (port : BusResponse) : SameBlock u { u.endTurn.endAccess with resp := port } :=
  ⟨u.host.tail, u.sched.tail, port, u.draws, rfl⟩

/-- A read answered. -/
theorem sameBlock_hostRead {u w : State} (h : SameBlock u w) (off : Nat) : SameBlock u (w.hostRead off) := by
  obtain ⟨ops, turns, port, n, rfl⟩ := h
  exact ⟨ops, turns, _, _, rfl⟩

/-- The input registers: the gated ones whose write only stores (20_memory.md R52). -/
def isInput (r : Reg) : Bool := r.gated && decide (r ≠ .cmd) && decide (r ≠ .ctxData)

/-- `s` with the input registers of `u`. -/
def withInputsOf (s u : State) : State :=
  { s with
    key0 := u.key0, key1 := u.key1, key2 := u.key2, seed0 := u.seed0, seed1 := u.seed1, seed2 := u.seed2
    din0 := u.din0, din1 := u.din1, pidxLo := u.pidxLo, pidxHi := u.pidxHi, psizeLo := u.psizeLo, psizeHi := u.psizeHi
    boffLo := u.boffLo, boffHi := u.boffHi, ctxIndex := u.ctxIndex }

theorem storeReg_frame (s : State) {r : Reg} (hr : isInput r = true) (v : Word) :
    s.storeReg r v = withInputsOf s (s.storeReg r v) := by
  cases r with
  | id | status | cmd | dout0 | dout1 | ctxData => cases hr
  | _ => rfl

/-- `s` with the context and the valid bits of `u`. -/
def withWindowOf (s u : State) : State :=
  { s with
    ctrLo := u.ctrLo, ctrHi := u.ctrHi, evoMinor := u.evoMinor, evoMajor := u.evoMajor, rkOffset := u.rkOffset
    rk := u.rk, t1 := u.t1, t2 := u.t2, t3 := u.t3
    keysValid := u.keysValid, t1Valid := u.t1Valid, t2Valid := u.t2Valid, t3Valid := u.t3Valid }

theorem ctxStore_frame (s : State) (i : Byte) (v : Word) : s.ctxStore i v = withWindowOf s (s.ctxStore i v) := by
  unfold State.ctxStore
  split <;> rfl

/-- What the next step of `s` can make of the block. The stores are written through their frames, so that a field they leave alone
is seen to be so. -/
inductive BlockEffect (s : State) : State → Prop where
  /-- Nothing: no turn, an idle engine or host, a read, a write that is ignored, an access outside the aperture. -/
  | nothing : BlockEffect s s
  /-- The command in flight completes (60_exceptions.md R207). -/
  | completed {i : Instr} {u : State} (hc : s.isCompletionOf i) (hx : exec i s = .next u) : BlockEffect s u
  /-- A host write is refused (60_exceptions.md R203). -/
  | recorded (e : ErrorKind) (ht : s.turn = some .host) : BlockEffect s (s.raise e)
  /-- A host write to `STATUS` clears the error record (10_state.md R26). -/
  | cleared {v : Word} (hw : s.isWriteTo .status v) (hv : v.getLsbD 1 = true) : BlockEffect s s.clearError
  /-- A command is accepted (60_exceptions.md R206). -/
  | started {v : Word} {i : Instr} (hb : s.busy = false) (hw : s.isWriteTo .cmd v) (hd : decode v = .ok i)
      (hr : isCipher i = true → s.allValid = true) : BlockEffect s (s.start v)
  /-- A host write stores into an input register (20_memory.md R57). -/
  | stored {r : Reg} {v : Word} (hb : s.busy = false) (hw : s.isWriteTo r v) (hr : isInput r = true) :
      BlockEffect s (withInputsOf s (s.storeReg r v))
  /-- A host write stores into the context window (45_context_control.md R178). -/
  | windowStored {v : Word} (hb : s.busy = false) (hw : s.isWriteTo .ctxData v)
      (hn : ctxWriteError s.ctxIndex v = none) : BlockEffect s (withWindowOf s (s.ctxStore s.ctxIndex v))
  /-- Hardware reset (70_reset_and_hazards.md R230). -/
  | reset (n : Nat) (ht : s.turn = some (.reset n)) : BlockEffect s (s.hardwareReset n)

/-! ### The writes do not look at the queue and the schedule -/

theorem ite_endAccess (p : Prop) [Decidable p] (a b : State) :
    (if p then a.endTurn.endAccess else b.endTurn.endAccess) = (if p then a else b).endTurn.endAccess := by
  split <;> rfl

theorem ctxStore_endAccess (s : State) (i : Byte) (v : Word) :
    s.endTurn.endAccess.ctxStore i v = (s.ctxStore i v).endTurn.endAccess := by
  unfold State.ctxStore
  split <;> rfl

theorem ctxWrite_endAccess (s : State) (i : Byte) (v : Word) :
    s.endTurn.endAccess.ctxWrite i v = (s.ctxWrite i v).endTurn.endAccess := by
  unfold State.ctxWrite
  split
  · rfl
  · exact ctxStore_endAccess s i v

theorem accept_endAccess (s : State) (v : Word) : s.endTurn.endAccess.accept v = (s.accept v).endTurn.endAccess := by
  unfold State.accept
  split
  · rfl
  · rename_i i _
    exact ite_endAccess ((isCipher i && !s.allValid) = true) (s.raise .notReady) (s.start v)

theorem storeReg_endAccess (s : State) (r : Reg) (v : Word) :
    s.endTurn.endAccess.storeReg r v = (s.storeReg r v).endTurn.endAccess := by
  cases r with
  | status => exact ite_endAccess (v.getLsbD 1 = true) s.clearError s
  | cmd => exact accept_endAccess s v
  | ctxData => exact ctxWrite_endAccess s s.ctxIndex v
  | _ => rfl

theorem writeWord_endAccess (s : State) (off : Nat) (v : Word) :
    s.endTurn.endAccess.writeWord off v = (s.writeWord off v).endTurn.endAccess := by
  unfold State.writeWord
  split
  · rename_i r _
    rw [storeReg_endAccess]
    exact ite_endAccess ((r.gated && s.busy) = true) (s.raise .busy) (s.storeReg r v)
  · rfl

theorem exec_endTurn {i : Instr} {s t : State} (h : exec i s.endTurn = .next t) :
    ∃ u, exec i s = .next u ∧ SameBlock u t := by
  cases i <;> cases h <;> exact ⟨_, rfl, _, _, _, _, rfl⟩

/-! ### Every step is one of the effects -/

theorem storeReg_effect {s : State} {r : Reg} {v : Word} (hw : s.isWriteTo r v) (hb : r.gated = true → s.busy = false) :
    BlockEffect s (s.storeReg r v) := by
  have ht : s.turn = some .host := hw.1
  cases r with
  | id | dout0 | dout1 => exact .nothing
  | status =>
    show BlockEffect s (if v.getLsbD 1 then s.clearError else s)
    split
    · rename_i hv; exact .cleared hw hv
    · exact .nothing
  | cmd =>
    show BlockEffect s (s.accept v)
    rcases accept_cases s v with ⟨-, ha⟩ | ⟨i, -, -, -, ha⟩ | ⟨i, hd, hr, ha⟩ <;> rw [ha]
    · exact .recorded .illegalCmd ht
    · exact .recorded .notReady ht
    · exact .started (hb rfl) hw hd hr
  | ctxData =>
    show BlockEffect s (s.ctxWrite s.ctxIndex v)
    rcases ctxWrite_cases s s.ctxIndex v with ⟨e, -, hs⟩ | ⟨hn, hs⟩ <;> rw [hs]
    · exact .recorded e ht
    · rw [ctxStore_frame]
      exact .windowStored (hb rfl) hw hn
  | _ =>
    rw [storeReg_frame s rfl]
    exact .stored (hb rfl) hw rfl

theorem writeWord_effect {s : State} {off : Nat} {v : Word} (ht : s.turn = some .host)
    (hh : s.host.head? = some (.write (Config.base + off) .word v)) : BlockEffect s (s.writeWord off v) := by
  rcases writeWord_cases s off v with ⟨-, hs⟩ | ⟨r, -, -, -, hs⟩ | ⟨r, hr, hb, hs⟩ <;> rw [hs]
  · exact .nothing
  · exact .recorded .busy ht
  · obtain rfl := offset_of_regAt hr
    exact storeReg_effect ⟨ht, hh⟩ hb

/-- The inversion of the step that the invariants and the safety statements below are proved from. -/
theorem step_effect {s t : State} (h : step s = .next t) : ∃ u, BlockEffect s u ∧ SameBlock u t := by
  rcases step_cases h with ⟨-, rfl⟩ | ⟨-, -, rfl⟩ | ⟨i, hc, hx⟩ | ⟨-, -, rfl⟩ | ⟨-, off, -, -, -, rfl⟩ |
    ⟨ht, off, -, -, v, hh, rfl⟩ | ⟨-, -, rfl⟩ | ⟨-, -, rfl⟩ | ⟨n, ht, rfl⟩
  · exact ⟨_, .nothing, _, _, _, _, rfl⟩
  · exact ⟨_, .nothing, _, _, _, _, rfl⟩
  · obtain ⟨u, hu, hs⟩ := exec_endTurn hx
    exact ⟨u, .completed hc hu, hs⟩
  · exact ⟨_, .nothing, _, _, _, _, rfl⟩
  · exact ⟨s, .nothing, sameBlock_hostRead ⟨_, _, _, _, rfl⟩ off⟩
  · unfold State.hostWrite
    rw [writeWord_endAccess]
    exact ⟨_, writeWord_effect ht hh, sameBlock_answered _ _⟩
  · exact ⟨s, .nothing, sameBlock_answered s _⟩
  · refine ⟨s, .nothing, sameBlock_hostRead ?_ 0x04⟩
    cases s.busy <;> exact ⟨_, _, _, _, rfl⟩
  · exact ⟨_, .reset n ht, _, _, _, _, rfl⟩

/-! ### The step a given turn makes -/

theorem step_of_isWriteTo {s : State} {r : Reg} {v : Word} (h : s.isWriteTo r v) :
    step s = .next { (s.writeWord r.offset v).endTurn.endAccess with resp := .done } := by
  obtain ⟨ht, hh⟩ := h
  have hoff : r.offset < 256 ∧ r.offset % 4 = 0 := by cases r <;> decide
  rw [← writeWord_endAccess]
  cases hl : s.host with
  | nil => rw [hl] at hh; cases hh
  | cons op rest =>
    rw [hl] at hh
    obtain rfl : op = wrOp r v := by simpa using hh
    simp [step, ht, hostTurn, hl, State.hostMove, wrOp, State.busAccess, hoff, State.hostWrite]

theorem step_of_isWindowWrite {s t : State} {p : Byte → Prop} (hw : s.isWindowWrite p) (h : step s = .next t) :
    p s.ctxIndex ∧ ∃ v, SameBlock (s.ctxWrite s.ctxIndex v) t := by
  obtain ⟨hb, hp, v, hv⟩ := hw
  rw [step_of_isWriteTo hv, writeWord_offset fun _ => hb] at h
  obtain rfl := Host.Outcome.next.inj h
  exact ⟨hp, v, sameBlock_answered (s.storeReg .ctxData v) .done⟩

theorem step_of_isCompletionOf {s : State} {i : Instr} (h : s.isCompletionOf i) : step s = exec i s.endTurn := by
  obtain ⟨ht, hb, hi⟩ := h
  have hi' : s.endTurn.inFlight = .ok i := hi
  simp only [step, ht, engineTurn, State.endTurn_busy, hb, if_true, complete, hi']

end Sys2Proof.Proofs
end

section
/-! The ranges, the error record and the command in flight: the invariant of every step (10_state.md R43; 60_exceptions.md R201,
R203, R206, R207). -/

namespace Sys2Proof.Proofs
open Sys2Proof Sys2Proof.Machine

theorem evolve_evoMinor_lt (s : State) : s.evolve.evoMinor.toNat < 2000 := by
  rcases evolve_cases s with ⟨hm, he⟩ | ⟨-, -, he⟩ | ⟨-, -, he⟩ <;> rw [he]
  · exact hm
  · exact Nat.zero_lt_succ _
  · exact Nat.zero_lt_succ _

theorem advanceOffset_rkOffset_lt (s : State) : s.advanceOffset.rkOffset.toNat < 18 := by
  simp only [State.advanceOffset_rkOffset, BitVec.toNat_ofNat]
  omega

theorem exec_keeps_ranges {i : Instr} {s u : State} (h : exec i s = .next u) (ho : s.rkOffset.toNat < 18)
    (hm : s.evoMinor.toNat < 2000) : u.rkOffset.toNat < 18 ∧ u.evoMinor.toNat < 2000 := by
  rcases exec_cases h with ⟨-, rfl⟩ | ⟨-, rfl⟩ | ⟨t, -, rfl⟩ | ⟨-, d0, d1, rfl⟩ | ⟨-, d0, d1, rfl⟩ | ⟨-, rfl⟩
  · exact ⟨ho, hm⟩
  · exact ⟨ho, hm⟩
  · exact ⟨ho, hm⟩
  · exact ⟨advanceOffset_rkOffset_lt _, evolve_evoMinor_lt ((s.setDout d0 d1).setCtr (s.ctr + 1))⟩
  · exact ⟨ho, evolve_evoMinor_lt (s.setDout d0 d1)⟩
  · exact ⟨Nat.zero_lt_succ _, Nat.zero_lt_succ _⟩

theorem exec_keeps_inv {i : Instr} {s u : State} (h : exec i s = .next u) (hs : s.Inv) : u.Inv where
  offset := (exec_keeps_ranges h hs.offset hs.minor).1
  minor := (exec_keeps_ranges h hs.offset hs.minor).2
  noError he := by rw [(exec_record h).2]; exact hs.noError ((exec_record h).1 ▸ he)
  anError he := by rw [(exec_record h).2]; exact hs.anError ((exec_record h).1 ▸ he)
  legal hb := by rw [exec_busy h] at hb; cases hb

theorem raise_keeps_inv (e : ErrorKind) {s : State} (hs : s.Inv) : (s.raise e).Inv where
  offset := hs.offset
  minor := hs.minor
  noError he := by cases he
  anError _ := by
    cases he : s.err with
    | false => exact ⟨e, by simp [he]⟩
    | true => simpa [he] using hs.anError he
  legal := hs.legal

theorem lt_of_ctxWriteError_evoMinor {v : Word} (h : ctxWriteError 0x02 v = none) : v.toNat < 2000 := by
  simpa [ctxWriteError, ctxSlot] using h

theorem lt_of_ctxWriteError_rkOffset {v : Word} (h : ctxWriteError 0x04 v = none) : v.toNat < 18 := by
  simpa [ctxWriteError, ctxSlot] using h

theorem byteOf_zero_toNat (v : Word) : (byteOf v 0).toNat = v.toNat % 256 := by
  simp [byteOf, BitVec.extractLsb'_toNat]

theorem ctxStore_keeps_inv {s : State} {i : Byte} {v : Word} (hb : s.busy = false) (hn : ctxWriteError i v = none)
    (hs : s.Inv) : (s.ctxStore i v).Inv := by
  have idle : ∀ {p : Prop}, s.busy = true → p := fun h => by rw [hb] at h; cases h
  rcases ctxStore_cases s i v with ⟨lo, hi, he⟩ | ⟨rfl, he⟩ | ⟨-, he⟩ | ⟨rfl, he⟩ | ⟨k, -, he⟩ | ⟨t, w, -, he⟩ <;> rw [he]
  · exact ⟨hs.offset, hs.minor, hs.noError, hs.anError, idle⟩
  · exact ⟨hs.offset, lt_of_ctxWriteError_evoMinor hn, hs.noError, hs.anError, idle⟩
  · exact ⟨hs.offset, hs.minor, hs.noError, hs.anError, idle⟩
  · have hv : v.toNat < 18 := lt_of_ctxWriteError_rkOffset hn
    have hbyte : (byteOf v 0).toNat < 18 := by rw [byteOf_zero_toNat]; omega
    exact ⟨hbyte, hs.minor, hs.noError, hs.anError, idle⟩
  · exact ⟨hs.offset, hs.minor, hs.noError, hs.anError, idle⟩
  · exact ⟨hs.offset, hs.minor, hs.noError, hs.anError, idle⟩

theorem reset_inv : State.reset.Inv where
  offset := by decide
  minor := by decide
  noError _ := rfl
  anError h := by cases h
  legal h := by cases h

theorem SameBlock.inv {u t : State} (h : SameBlock u t) (hu : u.Inv) : t.Inv := by
  obtain ⟨ops, turns, port, n, rfl⟩ := h
  exact ⟨hu.offset, hu.minor, hu.noError, hu.anError, hu.legal⟩

theorem effect_keeps_inv {s u : State} (h : BlockEffect s u) (hs : s.Inv) : u.Inv := by
  cases h with
  | nothing => exact hs
  | completed hc hx => exact exec_keeps_inv hx hs
  | recorded e ht => exact raise_keeps_inv e hs
  | cleared hw hv => exact ⟨hs.offset, hs.minor, fun _ => rfl, nofun, hs.legal⟩
  | started hb hw hd hr => exact ⟨hs.offset, hs.minor, hs.noError, hs.anError, fun _ => ⟨_, hd, hr⟩⟩
  | stored hb hw hr => exact ⟨hs.offset, hs.minor, hs.noError, hs.anError, hs.legal⟩
  | windowStored hb hw hn => exact ctxStore_frame s _ _ ▸ ctxStore_keeps_inv hb hn hs
  | reset n ht => exact SameBlock.inv ⟨_, _, _, _, rfl⟩ reset_inv

/-- Settles O48, by the cases of what a step does to the block. -/
theorem stepKeepsTheInvariant : Obligations.StepKeepsTheInvariant := by
  intro s t hs h
  obtain ⟨u, hu, hsame⟩ := step_effect h
  exact hsame.inv (effect_keeps_inv hu hs)

end Sys2Proof.Proofs
end

section
/-! The evolution counters count the same calls (10_state.md R43; 43_stream_transform.md R143). -/

namespace Sys2Proof.Proofs
open Sys2Proof Sys2Proof.Machine

theorem reset_inStep : State.reset.evolutionInStep := ⟨by decide, by decide⟩

theorem toNat_add_one {x : Word} (h : x.toNat < 4000000) : (x + 1).toNat = x.toNat + 1 := by
  bv_omega

/-- 4000000 is a multiple of 2000, so the major counter reaches its limit only at a call where the minor one does. -/
theorem evolve_keeps_inStep {s : State} (hs : s.evolutionInStep) : s.evolve.evolutionInStep := by
  have hlt : s.evoMajor.toNat < 4000000 := hs.1
  have hmod : s.evoMajor.toNat % 2000 = s.evoMinor.toNat := hs.2
  have hminor : (s.evoMinor + 1).toNat = s.evoMinor.toNat + 1 := toNat_add_one (by omega)
  have hmajor : (s.evoMajor + 1).toNat = s.evoMajor.toNat + 1 := toNat_add_one hlt
  rcases evolve_cases s with ⟨h1, he⟩ | ⟨h1, h2, he⟩ | ⟨h1, h2, he⟩ <;> rw [he]
  · exact ⟨show (s.evoMajor + 1).toNat < 4000000 by omega,
      show (s.evoMajor + 1).toNat % 2000 = (s.evoMinor + 1).toNat by omega⟩
  · exact ⟨h2, show (s.evoMajor + 1).toNat % 2000 = 0 by omega⟩
  · exact reset_inStep

theorem exec_keeps_inStep {i : Instr} {s u : State} (h : exec i s = .next u) (hs : s.evolutionInStep) :
    u.evolutionInStep := by
  rcases exec_cases h with ⟨-, rfl⟩ | ⟨-, rfl⟩ | ⟨t, -, rfl⟩ | ⟨-, d0, d1, rfl⟩ | ⟨-, d0, d1, rfl⟩ | ⟨-, rfl⟩
  · exact hs
  · exact hs
  · exact hs
  · exact evolve_keeps_inStep (s := (s.setDout d0 d1).setCtr (s.ctr + 1)) hs
  · exact evolve_keeps_inStep (s := s.setDout d0 d1) hs
  · exact reset_inStep

theorem ctxStore_keeps_inStep {s : State} {i : Byte} (v : Word) (hi : ¬ (i = 0x02 ∨ i = 0x03))
    (hs : s.evolutionInStep) : (s.ctxStore i v).evolutionInStep := by
  rcases ctxStore_cases s i v with ⟨lo, hi, he⟩ | ⟨h2, he⟩ | ⟨h3, he⟩ | ⟨-, he⟩ | ⟨k, -, he⟩ | ⟨t, w, -, he⟩ <;> rw [he]
  · exact hs
  · exact absurd (.inl h2) hi
  · exact absurd (.inr h3) hi
  · exact hs
  · exact hs
  · exact hs

theorem effect_keeps_inStep {s u : State} (h : BlockEffect s u)
    (hw : ¬ s.isWindowWrite (fun i => i = 0x02 ∨ i = 0x03)) (hs : s.evolutionInStep) : u.evolutionInStep := by
  cases h with
  | nothing => exact hs
  | completed hc hx => exact exec_keeps_inStep hx hs
  | recorded e ht => exact hs
  | cleared hv hv' => exact hs
  | started hb hv hd hr => exact hs
  | stored hb hv hr => exact hs
  | windowStored hb hv hn => exact ctxStore_frame s _ _ ▸ ctxStore_keeps_inStep _ (fun hi => hw ⟨hb, hi, _, hv⟩) hs
  | reset n ht => exact reset_inStep

/-- Settles O51, by the cases of what a step does to the block; the evolution is the case with arithmetic in it. -/
theorem evolutionCountersStayInStep : Obligations.EvolutionCountersStayInStep := by
  intro s t hs hw h
  obtain ⟨u, hu, ops, turns, port, n, rfl⟩ := step_effect h
  have hkept : u.evolutionInStep := effect_keeps_inStep hu hw hs
  exact hkept

end Sys2Proof.Proofs
end

section
/-! The tables stay permutations (10_state.md R42): composing keeps them (40_datapath.md R107), and the generator only swaps
entries (41_table_generation.md R122). -/

namespace Sys2Proof.Proofs
open Sys2Proof Sys2Proof.Machine

theorem identityTable_isPermutation : IsPermutation identityTable := by
  rw [IsPermutation, show lookup identityTable = id from funext lookup_identityTable]
  exact Function.bijective_id

theorem compose_isPermutation {A B : Table} (hA : IsPermutation A) (hB : IsPermutation B) :
    IsPermutation (compose A B) := by
  rw [IsPermutation, show lookup (compose A B) = lookup A ∘ lookup B from funext (lookup_compose A B)]
  exact hA.comp hB

/-- The swap of entries `i` and `j` that one step of `PermGen` makes (41_table_generation.md R120). -/
def swapEntries (T : Table) (i j : Byte) : Table := putEntry (putEntry T i (lookup T j)) j (lookup T i)

theorem lookup_swapEntries (T : Table) (i j x : Byte) : lookup (swapEntries T i j) x = lookup T (Equiv.swap i j x) := by
  simp only [swapEntries, lookup_putEntry]
  by_cases hj : j = x
  · rw [if_pos hj, ← hj, Equiv.swap_apply_right]
  by_cases hi : i = x
  · rw [if_neg hj, if_pos hi, ← hi, Equiv.swap_apply_left]
  · rw [if_neg hj, if_neg hi, Equiv.swap_apply_of_ne_of_ne (Ne.symm hi) (Ne.symm hj)]

theorem swapEntries_isPermutation {T : Table} (h : IsPermutation T) (i j : Byte) : IsPermutation (swapEntries T i j) := by
  rw [IsPermutation, show lookup (swapEntries T i j) = lookup T ∘ Equiv.swap i j from funext (lookup_swapEntries T i j)]
  exact h.comp (Equiv.swap i j).bijective

theorem permGenStep_table (seed : Seed) (p : Table × Byte) (n : Nat) :
    (permGenStep seed p n).1 = swapEntries p.1 (BitVec.ofNat 8 n) (permGenStep seed p n).2 := rfl

theorem permGenSteps_isPermutation (seed : Seed) (n : Nat) : IsPermutation (permGenSteps seed n).1 := by
  induction n with
  | zero => exact identityTable_isPermutation
  | succ n ih =>
    rw [permGenSteps_succ, permGenStep_table]
    exact swapEntries_isPermutation ih _ _

theorem permGen_isPermutation (seed : Seed) : IsPermutation (permGen seed) := permGenSteps_isPermutation seed 256

theorem seed_getElem (s : State) (k : Nat) (h : k < 12) : s.seed[k] =
    byteOf (if k / 4 = 0 then s.seed0 else if k / 4 = 1 then s.seed1 else s.seed2) (k % 4) := by
  simp only [State.seed, Vector.getElem_ofFn]

/-- Settles O8: the frames are `exec` at the command, the permutation is the generator's loop invariant. -/
theorem genTableReplacesOneTable : Obligations.GenTableReplacesOneTable := by
  refine ⟨fun s => ⟨rfl, rfl, rfl, permGen_isPermutation s.seed⟩, fun s k => ?_⟩
  match k with
  | 0 | 1 | 2 | 3 => exact ⟨seed_getElem .., seed_getElem .., seed_getElem ..⟩

theorem setTable_table (s : State) (t t' : TableId) (T : Table) :
    (s.setTable t T).table t' = if t = t' then T else s.table t' := by
  cases t' <;> rfl

theorem setTable_keeps_permutations {s : State} (hs : s.tablesArePermutations) (t : TableId) {T : Table}
    (hT : IsPermutation T) : (s.setTable t T).tablesArePermutations := by
  intro t'
  rw [setTable_table]
  split
  · exact hT
  · exact hs t'

theorem evolve_keeps_permutations {s : State} (hs : s.tablesArePermutations) : s.evolve.tablesArePermutations := by
  have h1 : IsPermutation (compose s.t2 s.t1) := compose_isPermutation (hs .t2) (hs .t1)
  have h2 : IsPermutation (compose s.t3 s.t2) := compose_isPermutation (hs .t3) (hs .t2)
  intro t
  rcases evolve_cases s with ⟨-, he⟩ | ⟨-, -, he⟩ | ⟨-, -, he⟩ <;> rw [he]
  · exact hs t
  · cases t with
    | t1 => exact h1
    | t2 => exact hs .t2
    | t3 => exact hs .t3
  · cases t with
    | t1 => exact h1
    | t2 => exact h2
    | t3 => exact hs .t3

theorem exec_keeps_permutations {i : Instr} {s u : State} (h : exec i s = .next u) (hs : s.tablesArePermutations) :
    u.tablesArePermutations := by
  rcases exec_cases h with ⟨-, rfl⟩ | ⟨-, rfl⟩ | ⟨t, -, rfl⟩ | ⟨-, d0, d1, rfl⟩ | ⟨-, d0, d1, rfl⟩ | ⟨-, rfl⟩
  · exact hs
  · exact hs
  · exact setTable_keeps_permutations hs t (permGen_isPermutation _)
  · exact evolve_keeps_permutations (s := (s.setDout d0 d1).setCtr (s.ctr + 1)) hs
  · exact evolve_keeps_permutations (s := s.setDout d0 d1) hs
  · exact hs

theorem ctxStore_keeps_permutations {s : State} {i : Byte} (v : Word) (hi : ¬ 0x40 ≤ i.toNat)
    (hs : s.tablesArePermutations) : (s.ctxStore i v).tablesArePermutations := by
  rcases ctxStore_cases s i v with ⟨lo, hi, he⟩ | ⟨-, he⟩ | ⟨-, he⟩ | ⟨-, he⟩ | ⟨k, -, he⟩ | ⟨t, w, ht, he⟩
  · exact he ▸ hs
  · exact he ▸ hs
  · exact he ▸ hs
  · exact he ▸ hs
  · exact he ▸ hs
  · exact absurd (le_of_inTableRegion ht) hi

theorem reset_tablesArePermutations : State.reset.tablesArePermutations := by
  intro t
  cases t <;> exact identityTable_isPermutation

theorem effect_keeps_permutations {s u : State} (h : BlockEffect s u)
    (hw : ¬ s.isWindowWrite (fun i => 0x40 ≤ i.toNat)) (hs : s.tablesArePermutations) : u.tablesArePermutations := by
  cases h with
  | nothing => exact hs
  | completed hc hx => exact exec_keeps_permutations hx hs
  | recorded e ht => exact hs
  | cleared hv hv' => exact hs
  | started hb hv hd hr => exact hs
  | stored hb hv hr => exact hs
  | windowStored hb hv hn =>
    exact ctxStore_frame s _ _ ▸ ctxStore_keeps_permutations _ (fun hi => hw ⟨hb, hi, _, hv⟩) hs
  | reset n ht => exact reset_tablesArePermutations

/-- Settles O52, by the cases of what a step does to the block. -/
theorem tablesStayPermutations : Obligations.TablesStayPermutations := by
  intro s t hs hw h
  obtain ⟨u, hu, ops, turns, port, n, rfl⟩ := step_effect h
  have hkept : u.tablesArePermutations := effect_keeps_permutations hu hw hs
  exact hkept

/-- Settles O49, from the reset state's part of each invariant. -/
theorem resetHasTheInvariant : Obligations.ResetHasTheInvariant := ⟨reset_inv, reset_inStep, reset_tablesArePermutations⟩

/-- Settles O47: the step is the reset, whose fields are those of `State.reset`. -/
theorem hardwareResetValues : Obligations.HardwareResetValues := by
  rintro s n ⟨rest, hs⟩
  have hstep : step s = .next (s.endTurn.hardwareReset n) := by simp only [step, State.turn, hs]
  have hstatus : State.reset.statusWord = 0 := by decide
  have hrk : ∀ i : Fin 26, (Vector.replicate 26 (0 : Word))[i] = 0 := fun i => by simp
  have hid : ∀ x : Byte, lookup identityTable x = x := lookup_identityTable
  exact ⟨_, hstep, rfl, rfl, hstatus, rfl, rfl, rfl, rfl, rfl, rfl, rfl, rfl, rfl, rfl, rfl, rfl, rfl, rfl, rfl, rfl, rfl,
    rfl, rfl, rfl, rfl, rfl, rfl, rfl, hrk, fun x => ⟨hid x, hid x, hid x⟩, rfl, rfl, rfl, rfl⟩

end Sys2Proof.Proofs
end

section
/-! `BUSY` and the error record (10_state.md R25, R26). -/

namespace Sys2Proof.Proofs
open Sys2Proof Sys2Proof.Machine

theorem effect_sets_busy {s u : State} (h : BlockEffect s u) (hs : s.busy = false) (hu : u.busy = true) :
    ∃ i : Instr, s.isWriteTo .cmd (encode i) ∧ (isCipher i = true → s.allValid = true) ∧ u.cmd = encode i := by
  have unset : ∀ {p : Prop}, u.busy = s.busy → p := fun h => by rw [h, hs] at hu; cases hu
  cases h with
  | nothing => exact unset rfl
  | completed hc hx => rw [exec_busy hx] at hu; cases hu
  | recorded e ht => exact unset rfl
  | cleared hw hv => exact unset rfl
  | started hb hw hd hr =>
    obtain rfl := eq_encode_of_decode hd
    exact ⟨_, hw, hr, rfl⟩
  | stored hb hw hr => exact unset rfl
  | windowStored hb hw hn => exact unset rfl
  | reset n ht => cases hu

theorem effect_clears_busy {s u : State} (h : BlockEffect s u) (hs : s.busy = true) (hu : u.busy = false) :
    s.isReset ∨ ∃ i : Instr, s.isCompletionOf i := by
  have kept : ∀ {p : Prop}, u.busy = s.busy → p := fun h => by rw [h, hs] at hu; cases hu
  cases h with
  | nothing => exact kept rfl
  | completed hc hx => exact .inr ⟨_, hc⟩
  | recorded e ht => exact kept rfl
  | cleared hw hv => exact kept rfl
  | started hb hw hd hr => cases hu
  | stored hb hw hr => exact kept rfl
  | windowStored hb hw hn => exact kept rfl
  | reset n ht => exact .inl ⟨n, ht⟩

/-- Settles O53, by the cases of what a step does to the block. -/
theorem onlyAcceptanceSetsBusy : Obligations.OnlyAcceptanceSetsBusy := by
  intro s t h
  obtain ⟨u, hu, ops, turns, port, n, rfl⟩ := step_effect h
  have hset := effect_sets_busy hu
  have hclear := effect_clears_busy hu
  exact ⟨getLsbD_statusWord s 0, hset, hclear⟩

theorem effect_changes_record {s u : State} (h : BlockEffect s u) (hne : u.err ≠ s.err ∨ u.errCode ≠ s.errCode) :
    (s.err = false ∧ u.err = true ∧ (∃ e : ErrorKind, u.errCode = e.code) ∧ s.turn = some .host) ∨
    (u.err = false ∧ u.errCode = 0 ∧ ∃ v : Word, v.getLsbD 1 = true ∧ s.isWriteTo .status v) ∨ s.isReset := by
  have kept : ∀ {p : Prop}, u.err = s.err ∧ u.errCode = s.errCode → p :=
    fun ⟨he, hc⟩ => absurd hne (not_or.2 ⟨not_not.2 he, not_not.2 hc⟩)
  cases h with
  | nothing => exact kept ⟨rfl, rfl⟩
  | completed hc hx => exact kept (exec_record hx)
  | recorded e ht =>
    cases he : s.err with
    | false => exact .inl ⟨rfl, rfl, ⟨e, by simp [he]⟩, ht⟩
    | true => exact kept (by simp [he])
  | cleared hw hv => exact .inr (.inl ⟨rfl, rfl, _, hv, hw⟩)
  | started hb hw hd hr => exact kept ⟨rfl, rfl⟩
  | stored hb hw hr => exact kept ⟨rfl, rfl⟩
  | windowStored hb hw hn => exact kept ⟨rfl, rfl⟩
  | reset n ht => exact .inr (.inr ⟨n, ht⟩)

/-- Settles O54: what changes the record by the cases of a step, what a write to `STATUS` does by running it. -/
theorem onlyTheRecordAndItsClearChangeTheError : Obligations.OnlyTheRecordAndItsClearChangeTheError := by
  refine ⟨fun s t h hne => ?_, fun s v hw => ?_⟩
  · obtain ⟨u, hu, ops, turns, port, n, rfl⟩ := step_effect h
    have hrecord := effect_changes_record hu
    exact hrecord hne
  · rw [step_of_isWriteTo hw, writeWord_offset (r := .status) nofun]
    unfold State.storeReg
    cases v.getLsbD 1
    · simp [State.endTurn, State.endAccess]
    · simp [State.endTurn, State.endAccess, State.clearError]

end Sys2Proof.Proofs
end

section
/-! The valid bits, the round keys and Table3 (10_state.md R27, R40, R41). A valid bit and what it stands for have the same
writers, so one lemma about a step's effect serves both. -/

namespace Sys2Proof.Proofs
open Sys2Proof Sys2Proof.Machine

/-- The valid bit of a table (10_state.md R27). -/
def tableValid (s : State) : TableId → Bool
  | .t1 => s.t1Valid
  | .t2 => s.t2Valid
  | .t3 => s.t3Valid

theorem setTable_tableValid (s : State) (t t' : TableId) (T : Table) :
    tableValid (s.setTable t T) t' = if t = t' then true else tableValid s t' := by
  cases t' <;> rfl

/-! ### Who writes them -/

theorem exec_keys {i : Instr} {s u : State} (h : exec i s = .next u) :
    (i = .keyExpand ∧ u.keysValid = true) ∨ (i ≠ .keyExpand ∧ u.rk = s.rk ∧ u.keysValid = s.keysValid) := by
  rcases exec_cases h with ⟨rfl, rfl⟩ | ⟨rfl, rfl⟩ | ⟨t, rfl, rfl⟩ | ⟨rfl, d0, d1, rfl⟩ | ⟨rfl, d0, d1, rfl⟩ | ⟨rfl, rfl⟩
  · exact .inr ⟨by decide, rfl, rfl⟩
  · exact .inl ⟨rfl, rfl⟩
  · exact .inr ⟨by cases t <;> decide, rfl, rfl⟩
  · exact .inr ⟨by decide, by simp, by simp⟩
  · exact .inr ⟨by decide, by simp, by simp⟩
  · exact .inr ⟨by decide, rfl, rfl⟩

theorem exec_table {i : Instr} {s u : State} (h : exec i s = .next u) (t : TableId) :
    (i = genTable t ∧ tableValid u t = true) ∨
      (i ≠ genTable t ∧ tableValid u t = tableValid s t ∧ (t = .t3 → u.t3 = s.t3)) := by
  rcases exec_cases h with ⟨rfl, rfl⟩ | ⟨rfl, rfl⟩ | ⟨t', rfl, rfl⟩ | ⟨rfl, d0, d1, rfl⟩ | ⟨rfl, d0, d1, rfl⟩ | ⟨rfl, rfl⟩
  case inr.inr.inl => -- `GEN_TABLE t'`
    have hv : tableValid (s.setTable t' (permGen s.seed)).finish t = _ := setTable_tableValid s t' t (permGen s.seed)
    by_cases ht : t' = t
    · exact .inl ⟨ht ▸ rfl, hv.trans (if_pos ht)⟩
    · exact .inr ⟨fun he => ht (genTable_injective he), hv.trans (if_neg ht), fun h3 => if_neg (h3 ▸ ht)⟩
  -- no other command touches Table3 or a table's valid bit
  all_goals exact .inr ⟨by cases t <;> decide, by cases t <;> simp [tableValid], by simp⟩

theorem ctxStore_keys (s : State) (i : Byte) (v : Word) :
    (inKeyRegion i ∧ (s.ctxStore i v).keysValid = true) ∨
      ((s.ctxStore i v).rk = s.rk ∧ (s.ctxStore i v).keysValid = s.keysValid) := by
  rcases ctxStore_cases s i v with ⟨lo, hi, he⟩ | ⟨-, he⟩ | ⟨-, he⟩ | ⟨-, he⟩ | ⟨k, hk, he⟩ | ⟨t, w, ht, he⟩ <;> rw [he]
  case inr.inr.inr.inr.inl => exact .inl ⟨hk, rfl⟩ -- a round key
  all_goals exact .inr ⟨rfl, rfl⟩

theorem ctxStore_table (s : State) (i : Byte) (v : Word) (t : TableId) :
    (inTableRegion t i ∧ tableValid (s.ctxStore i v) t = true) ∨
      (tableValid (s.ctxStore i v) t = tableValid s t ∧ (s.ctxStore i v).table t = s.table t) := by
  rcases ctxStore_cases s i v with ⟨lo, hi, he⟩ | ⟨-, he⟩ | ⟨-, he⟩ | ⟨-, he⟩ | ⟨k, hk, he⟩ | ⟨t', w, ht, he⟩ <;> rw [he]
  case inr.inr.inr.inr.inr => -- a word of table `t'`
    rw [setTable_table, setTable_tableValid]
    by_cases h : t' = t
    · exact .inl ⟨h ▸ ht, if_pos h⟩
    · exact .inr ⟨if_neg h, if_neg h⟩
  all_goals exact .inr (by cases t <;> exact ⟨rfl, rfl⟩)

theorem effect_keys {s u : State} (h : BlockEffect s u) :
    (u.keysValid = s.keysValid ∧ u.rk = s.rk) ∨
    (u.keysValid = true ∧ (s.isCompletionOf .keyExpand ∨ s.isWindowWrite inKeyRegion)) ∨
    (u.keysValid = false ∧ s.isReset) := by
  cases h with
  | nothing => exact .inl ⟨rfl, rfl⟩
  | completed hc hx =>
    rcases exec_keys hx with ⟨rfl, hv⟩ | ⟨-, hk, hv⟩
    · exact .inr (.inl ⟨hv, .inl hc⟩)
    · exact .inl ⟨hv, hk⟩
  | recorded e ht => exact .inl ⟨rfl, rfl⟩
  | cleared hw hv => exact .inl ⟨rfl, rfl⟩
  | started hb hw hd hr => exact .inl ⟨rfl, rfl⟩
  | stored hb hw hr => exact .inl ⟨rfl, rfl⟩
  | windowStored hb hw hn =>
    rw [← ctxStore_frame]
    rcases ctxStore_keys s s.ctxIndex _ with ⟨hi, hv⟩ | ⟨hk, hv⟩
    · exact .inr (.inl ⟨hv, .inr ⟨hb, hi, _, hw⟩⟩)
    · exact .inl ⟨hv, hk⟩
  | reset n ht => exact .inr (.inr ⟨rfl, n, ht⟩)

theorem effect_table {s u : State} (h : BlockEffect s u) (t : TableId) :
    (tableValid u t = tableValid s t ∧ (t = .t3 → u.t3 = s.t3)) ∨
    (tableValid u t = true ∧ (s.isCompletionOf (genTable t) ∨ s.isWindowWrite (inTableRegion t))) ∨
    (tableValid u t = false ∧ s.isReset) := by
  have kept : u.t1Valid = s.t1Valid ∧ u.t2Valid = s.t2Valid ∧ u.t3Valid = s.t3Valid ∧ u.t3 = s.t3 →
      tableValid u t = tableValid s t ∧ (t = .t3 → u.t3 = s.t3) := by
    rintro ⟨h1, h2, h3, ht⟩
    cases t with
    | t1 => exact ⟨h1, fun _ => ht⟩
    | t2 => exact ⟨h2, fun _ => ht⟩
    | t3 => exact ⟨h3, fun _ => ht⟩
  cases h with
  | nothing => exact .inl (kept ⟨rfl, rfl, rfl, rfl⟩)
  | completed hc hx =>
    rcases exec_table hx t with ⟨rfl, hv⟩ | ⟨-, hk⟩
    · exact .inr (.inl ⟨hv, .inl hc⟩)
    · exact .inl hk
  | recorded e ht => exact .inl (kept ⟨rfl, rfl, rfl, rfl⟩)
  | cleared hw hv => exact .inl (kept ⟨rfl, rfl, rfl, rfl⟩)
  | started hb hw hd hr => exact .inl (kept ⟨rfl, rfl, rfl, rfl⟩)
  | stored hb hw hr => exact .inl (kept ⟨rfl, rfl, rfl, rfl⟩)
  | windowStored hb hw hn =>
    rw [← ctxStore_frame]
    rcases ctxStore_table s s.ctxIndex _ t with ⟨hi, hv⟩ | ⟨hv, hk⟩
    · exact .inr (.inl ⟨hv, .inr ⟨hb, hi, _, hw⟩⟩)
    · exact .inl ⟨hv, by rintro rfl; exact hk⟩
  | reset n ht => exact .inr (.inr ⟨by cases t <;> rfl, n, ht⟩)

/-- Settles O56: the effects that keep the valid bit keep what it stands for. -/
theorem roundKeysAndTableThreeAreWrittenOnlySo : Obligations.RoundKeysAndTableThreeAreWrittenOnlySo := by
  intro s t h
  obtain ⟨u, hu, ops, turns, port, n, rfl⟩ := step_effect h
  refine ⟨fun hne => ?_, fun hne => ?_⟩
  · rcases effect_keys hu with ⟨-, hk⟩ | ⟨-, hw⟩ | ⟨-, hr⟩
    · exact absurd hk hne
    · exact .inr hw
    · exact .inl hr
  · rcases effect_table hu .t3 with ⟨-, hk⟩ | ⟨-, hw⟩ | ⟨-, hr⟩
    · exact absurd (hk rfl) hne
    · exact .inr hw
    · exact .inl hr

/-! ### A writer always sets its bit -/

theorem ctxWrite_keysValid {s : State} {i : Byte} (h : inKeyRegion i) (v : Word) : (s.ctxWrite i v).keysValid = true := by
  obtain ⟨k, hk⟩ := ctxSlot_of_inKeyRegion h
  simp [State.ctxWrite, ctxWriteError, State.ctxStore, hk]

theorem ctxWrite_tableValid {s : State} {t : TableId} {i : Byte} (h : inTableRegion t i) (v : Word) :
    tableValid (s.ctxWrite i v) t = true := by
  obtain ⟨w, hw⟩ := ctxSlot_of_inTableRegion h
  simp [State.ctxWrite, ctxWriteError, State.ctxStore, hw, setTable_tableValid]

theorem step_sets_keysValid {s t : State} (h : step s = .next t)
    (hs : s.isCompletionOf .keyExpand ∨ s.isWindowWrite inKeyRegion) : t.keysValid = true := by
  rcases hs with hc | hw
  · rw [step_of_isCompletionOf hc] at h
    rcases exec_keys h with ⟨-, hv⟩ | ⟨hne, -⟩
    · exact hv
    · exact absurd rfl hne
  · obtain ⟨hi, v, ops, turns, port, n, rfl⟩ := step_of_isWindowWrite hw h
    exact ctxWrite_keysValid hi v

theorem step_sets_tableValid {s t : State} {x : TableId} (h : step s = .next t)
    (hs : s.isCompletionOf (genTable x) ∨ s.isWindowWrite (inTableRegion x)) : tableValid t x = true := by
  rcases hs with hc | hw
  · rw [step_of_isCompletionOf hc] at h
    rcases exec_table h x with ⟨-, hv⟩ | ⟨hne, -⟩
    · exact hv
    · exact absurd rfl hne
  · obtain ⟨hi, v, ops, turns, port, n, rfl⟩ := step_of_isWindowWrite hw h
    have hv := ctxWrite_tableValid (s := s) hi v
    cases x <;> exact hv

/-! ### The rule for one valid bit -/

/-- Over a step of `s`, a bit with the values `before` and `after` is set by a writer and by nothing else, and only hardware reset
clears it (10_state.md R27). -/
def BitFollowsR27 (s : State) (before after : Bool) (writer : Prop) : Prop :=
  (before = false → after = true → writer) ∧ (writer → after = true) ∧ (¬ s.isReset → before = true → after = true)

theorem bitFollowsR27_of_cases {s : State} {before after : Bool} {writer : Prop} (hset : writer → after = true)
    (h : after = before ∨ (after = true ∧ writer) ∨ (after = false ∧ s.isReset)) :
    BitFollowsR27 s before after writer := by
  rcases h with rfl | ⟨rfl, hw⟩ | ⟨rfl, hr⟩
  · exact ⟨fun h0 h1 => absurd (h0.symm.trans h1) nofun, hset, fun _ h1 => h1⟩
  · exact ⟨fun _ _ => hw, hset, fun _ _ => rfl⟩
  · exact ⟨nofun, hset, fun hn => absurd hr hn⟩

theorem step_keysValid {s t : State} (h : step s = .next t) :
    BitFollowsR27 s s.keysValid t.keysValid (s.isCompletionOf .keyExpand ∨ s.isWindowWrite inKeyRegion) := by
  refine bitFollowsR27_of_cases (step_sets_keysValid h) ?_
  obtain ⟨u, hu, ops, turns, port, n, rfl⟩ := step_effect h
  exact (effect_keys hu).imp_left And.left

theorem step_tableValid {s t : State} (h : step s = .next t) (x : TableId) :
    BitFollowsR27 s (tableValid s x) (tableValid t x)
      (s.isCompletionOf (genTable x) ∨ s.isWindowWrite (inTableRegion x)) := by
  refine bitFollowsR27_of_cases (step_sets_tableValid h) ?_
  obtain ⟨u, hu, ops, turns, port, n, rfl⟩ := step_effect h
  have heffect := (effect_table hu x).imp_left And.left
  cases x <;> exact heffect

theorem allValid_iff (s : State) : s.allValid = true ↔
    s.keysValid = true ∧ s.t1Valid = true ∧ s.t2Valid = true ∧ s.t3Valid = true := by
  simp [State.allValid, and_assoc]

theorem effect_accepts_cipher {s u : State} (h : BlockEffect s u) (hs : s.busy = false) (hu : u.busy = true)
    (hc : u.cmd = encode .encCtr ∨ u.cmd = encode .encPos) : s.allValid = true := by
  obtain ⟨i, -, hr, hi⟩ := effect_sets_busy h hs hu
  rw [hi] at hc
  rcases hc with hc | hc <;> exact hr (by rw [encode_injective hc]; rfl)

/-- Settles O55: the rule for one bit at each of the four, and acceptance for the last clause. -/
theorem validBitsAreSetAndClearedAsStated : Obligations.ValidBitsAreSetAndClearedAsStated := by
  intro s t h
  obtain ⟨onlyK, setK, keepK⟩ := step_keysValid h
  obtain ⟨only1, set1, keep1⟩ := step_tableValid h .t1
  obtain ⟨only2, set2, keep2⟩ := step_tableValid h .t2
  obtain ⟨only3, set3, keep3⟩ := step_tableValid h .t3
  refine ⟨onlyK, only1, only2, only3, setK, set1, set2, set3,
    fun hr => ⟨keepK hr, keep1 hr, keep2 hr, keep3 hr⟩, fun hb hb' hc => (allValid_iff s).1 ?_⟩
  obtain ⟨u, hu, ops, turns, port, n, rfl⟩ := step_effect h
  have haccept := effect_accepts_cipher hu hb
  exact haccept hb' hc

end Sys2Proof.Proofs
end

section
/-! The data registers (10_state.md R31, R32). -/

namespace Sys2Proof.Proofs
open Sys2Proof Sys2Proof.Machine

theorem exec_dout {i : Instr} {s u : State} (h : exec i s = .next u) :
    (i = .encCtr ∨ i = .encPos) ∨ (u.dout0 = s.dout0 ∧ u.dout1 = s.dout1) := by
  rcases exec_cases h with ⟨-, rfl⟩ | ⟨-, rfl⟩ | ⟨t, -, rfl⟩ | ⟨hi, -⟩ | ⟨hi, -⟩ | ⟨-, rfl⟩
  · exact .inr ⟨rfl, rfl⟩
  · exact .inr ⟨rfl, rfl⟩
  · exact .inr ⟨rfl, rfl⟩
  · exact .inl (.inl hi)
  · exact .inl (.inr hi)
  · exact .inr ⟨rfl, rfl⟩

theorem effect_dout {s u : State} (h : BlockEffect s u) :
    (u.dout0 = s.dout0 ∧ u.dout1 = s.dout1) ∨ s.isReset ∨ s.isCompletionOf .encCtr ∨ s.isCompletionOf .encPos := by
  cases h with
  | nothing => exact .inl ⟨rfl, rfl⟩
  | completed hc hx =>
    rcases exec_dout hx with (rfl | rfl) | hk
    · exact .inr (.inr (.inl hc))
    · exact .inr (.inr (.inr hc))
    · exact .inl hk
  | recorded e ht => exact .inl ⟨rfl, rfl⟩
  | cleared hw hv => exact .inl ⟨rfl, rfl⟩
  | started hb hw hd hr => exact .inl ⟨rfl, rfl⟩
  | stored hb hw hr => exact .inl ⟨rfl, rfl⟩
  | windowStored hb hw hn => exact .inl ⟨rfl, rfl⟩
  | reset n ht => exact .inr (.inl ⟨n, ht⟩)

theorem storeReg_din (s : State) {r : Reg} (hr : isInput r = true) (v : Word) :
    ((s.storeReg r v).din0 = s.din0 ∨ (r = .din0 ∧ (s.storeReg r v).din0 = v)) ∧
      ((s.storeReg r v).din1 = s.din1 ∨ (r = .din1 ∧ (s.storeReg r v).din1 = v)) := by
  cases r with
  | din0 => exact ⟨.inr ⟨rfl, rfl⟩, .inl rfl⟩
  | din1 => exact ⟨.inl rfl, .inr ⟨rfl, rfl⟩⟩
  | status | cmd | ctxData => cases hr
  | _ => exact ⟨.inl rfl, .inl rfl⟩

theorem effect_din {s u : State} (h : BlockEffect s u) :
    s.isReset ∨
      (u.din0 = s.din0 ∨ (s.busy = false ∧ s.isWriteTo .din0 u.din0)) ∧
        (u.din1 = s.din1 ∨ (s.busy = false ∧ s.isWriteTo .din1 u.din1)) := by
  cases h with
  | nothing => exact .inr ⟨.inl rfl, .inl rfl⟩
  | completed hc hx => exact .inr ((exec_din hx).imp .inl .inl)
  | recorded e ht => exact .inr ⟨.inl rfl, .inl rfl⟩
  | cleared hw hv => exact .inr ⟨.inl rfl, .inl rfl⟩
  | started hb hw hd hr => exact .inr ⟨.inl rfl, .inl rfl⟩
  | stored hb hw hr =>
    obtain ⟨h0, h1⟩ := storeReg_din s hr _
    refine .inr ⟨h0.imp_right ?_, h1.imp_right ?_⟩
    · rintro ⟨rfl, -⟩; exact ⟨hb, hw⟩
    · rintro ⟨rfl, -⟩; exact ⟨hb, hw⟩
  | windowStored hb hw hn => exact .inr ⟨.inl rfl, .inl rfl⟩
  | reset n ht => exact .inl ⟨n, ht⟩

/-- Settles O57, by the cases of what a step does to the block. -/
theorem outputsAndInputsAreWrittenOnlySo : Obligations.OutputsAndInputsAreWrittenOnlySo := by
  intro s t h
  obtain ⟨u, hu, ops, turns, port, n, rfl⟩ := step_effect h
  refine ⟨fun hne => ?_, fun hne => ?_, fun hne => ?_⟩
  · rcases effect_dout hu with ⟨h0, h1⟩ | hw
    · exact absurd hne (not_or.2 ⟨not_not.2 h0, not_not.2 h1⟩)
    · exact hw
  · exact (effect_din hu).imp_right fun hd => hd.1.resolve_left hne
  · exact (effect_din hu).imp_right fun hd => hd.2.resolve_left hne

end Sys2Proof.Proofs
end

section
/-! Nothing a host does while a command is in flight reaches what the command reads (20_memory.md R57;
70_reset_and_hazards.md R250): such a step moves the error record and the model's own fields alone, and no command reads
those. -/

namespace Sys2Proof.Proofs
open Sys2Proof Sys2Proof.Machine

theorem hostStep_while_busy {s t : State} (hb : s.busy = true) (ht : s.turn = some .host) (h : step s = .next t) :
    t = s.withRecordOf t := by
  obtain ⟨u, hu, ops, turns, port, n, rfl⟩ := step_effect h
  cases hu with
  | nothing | recorded | cleared => rfl
  | completed hc hx =>
    obtain ⟨hengine, -, -⟩ := hc
    cases ht.symm.trans hengine
  | started hidle | stored hidle | windowStored hidle => cases hb.symm.trans hidle
  | reset k hreset => cases ht.symm.trans hreset

theorem exec_completes (i : Instr) (s : State) : ∃ u, exec i s = .next u := by
  cases i <;> exact ⟨_, rfl⟩

/-- A command neither reads nor writes the error record and the model's own fields. -/
theorem exec_withRecordOf {i : Instr} {s u : State} (h : exec i s = .next u) (t : State) :
    exec i (s.withRecordOf t) = .next (u.withRecordOf t) := by
  cases i <;> cases h <;> rfl

/-- Settles O58: the step is a change of the record alone, which completing the command commutes with. -/
theorem resultDoesNotDependOnTiming : Obligations.ResultDoesNotDependOnTiming := by
  intro s t i hb hi ht h
  have hsame : t = s.withRecordOf t := hostStep_while_busy hb ht h
  obtain ⟨u, hu⟩ := exec_completes i s
  have hv : exec i (s.withRecordOf t) = .next (u.withRecordOf t) := exec_withRecordOf hu t
  rw [hsame]
  exact ⟨hb, hi, u, _, hu, hv, rfl⟩

end Sys2Proof.Proofs
end

section
/-! The bus rules of a host access (20_memory.md R54, R55): which accesses the block takes, which are bus errors, which are not
the block's. -/

namespace Sys2Proof.Proofs
open Sys2Proof Sys2Proof.Machine

/-! ### Bus errors -/

theorem busAccess_eq_fault_iff (s : State) (addr : Nat) (width : AccessWidth) (act : Nat → State) (off : Nat)
    (w : AccessWidth) : s.busAccess addr width act = .fault (.busError off w) ↔
      off < 256 ∧ (w ≠ .word ∨ off % 4 ≠ 0) ∧ addr = Config.base + off ∧ width = w := by
  rcases busAccess_cases s addr width act with ⟨o, ho, rfl, rfl, h4, hr⟩ | ⟨o, ho, rfl, hw, hr⟩ | ⟨hout, hr⟩ <;> rw [hr]
  · refine ⟨nofun, fun ⟨_, hbad, haddr, hword⟩ => ?_⟩
    subst hword
    obtain rfl : o = off := by omega
    simp [h4] at hbad
  · constructor
    · intro h
      cases h
      exact ⟨ho, hw, rfl, rfl⟩
    · rintro ⟨-, -, haddr, rfl⟩
      obtain rfl : o = off := by omega
      rfl
  · exact ⟨nofun, fun ⟨hlt, _, haddr, _⟩ => by omega⟩

theorem hostMove_read (s : State) (addr : Nat) (width : AccessWidth) :
    s.hostMove (.read addr width) = s.endAccess.busAccess addr width fun off => s.endAccess.hostRead off := rfl

theorem hostMove_write (s : State) (addr : Nat) (width : AccessWidth) (v : Word) :
    s.hostMove (.write addr width v) = s.endAccess.busAccess addr width fun off => s.endAccess.hostWrite off v := rfl

theorem hostMove_eq_fault_iff (s : State) (op : HostOp) (off : Nat) (width : AccessWidth) :
    s.hostMove op = .fault (.busError off width) ↔ off < 256 ∧ (width ≠ .word ∨ off % 4 ≠ 0) ∧
      (op = .read (Config.base + off) width ∨ ∃ v, op = .write (Config.base + off) width v) := by
  cases op with
  | read addr w => simp [hostMove_read, busAccess_eq_fault_iff]
  | write addr w v => simp [hostMove_write, busAccess_eq_fault_iff]
  | pollBusy => simp [State.hostMove]

theorem engineTurn_ne_fault (s : State) (r : Fault) : engineTurn s ≠ .fault r := by
  unfold engineTurn complete
  split
  · split
    · rename_i i _
      obtain ⟨u, hu⟩ := exec_completes i s
      simp [hu]
    · nofun
  · nofun

theorem step_of_host_cons {s : State} {op : HostOp} {rest : List HostOp} (ht : s.turn = some .host)
    (hh : s.host = op :: rest) : step s = s.endTurn.hostMove op := by
  simp [step, ht, hostTurn, hh]

/-- A step that faults is the move of a host's access. -/
theorem hostMove_of_step_fault {s : State} {r : Fault} (h : step s = .fault r) :
    s.turn = some .host ∧ ∃ op, s.host.head? = some op ∧ s.endTurn.hostMove op = .fault r := by
  cases ht : s.turn with
  | none => simp [step, ht] at h
  | some agent =>
    cases agent with
    | engine => exact absurd (by simpa [step, ht] using h) (engineTurn_ne_fault s.endTurn r)
    | reset n => simp [step, ht] at h
    | host =>
      cases hh : s.host with
      | nil => simp [step, ht, hostTurn, hh] at h
      | cons op rest => exact ⟨rfl, op, rfl, step_of_host_cons ht hh ▸ h⟩

/-- Settles O39: only the host's move faults, and it does so by the bus rule of its access. -/
theorem busErrorIsTheOnlyFault : Obligations.BusErrorIsTheOnlyFault := by
  intro s off width
  constructor
  · intro h
    obtain ⟨ht, op, hop, hmove⟩ := hostMove_of_step_fault h
    obtain ⟨hoff, hbad, haccess⟩ := (hostMove_eq_fault_iff _ _ _ _).1 hmove
    refine ⟨ht, hoff, hbad, ?_⟩
    rcases haccess with rfl | ⟨v, rfl⟩
    · exact .inl hop
    · exact .inr ⟨v, hop⟩
  · rintro ⟨ht, hoff, hbad, haccess⟩
    obtain ⟨op, hop, haccess⟩ : ∃ op, s.host.head? = some op ∧
        (op = .read (Config.base + off) width ∨ ∃ v, op = .write (Config.base + off) width v) := by
      rcases haccess with hop | ⟨v, hop⟩
      · exact ⟨_, hop, .inl rfl⟩
      · exact ⟨_, hop, .inr ⟨v, rfl⟩⟩
    obtain ⟨rest, hh⟩ := List.head?_eq_some_iff.1 hop
    rw [step_of_host_cons ht hh]
    exact (hostMove_eq_fault_iff _ _ _ _).2 ⟨hoff, hbad, haccess⟩

/-! ### Accesses that do not fault -/

theorem busAccess_inside {off : Nat} (hoff : off < 256) (h4 : off % 4 = 0) (s : State) (act : Nat → State) :
    s.busAccess (Config.base + off) .word act = .next (act off) := by
  simp [State.busAccess, hoff, h4]

theorem busAccess_outside {addr : Nat} (h : addr < Config.base ∨ Config.base + 256 ≤ addr) (s : State)
    (width : AccessWidth) (act : Nat → State) :
    s.busAccess addr width act = .next { s with resp := .notSelected } := by
  have hout : ¬ (Config.base ≤ addr ∧ addr < Config.base + 256) := by omega
  simp [State.busAccess, hout]

/-- What an access uses up: its place in the queue and the host's turn. -/
theorem endTurn_endAccess_of_host_cons {s : State} {op : HostOp} {rest : List HostOp} (hh : s.host = op :: rest) :
    s.endTurn.endAccess = { s with host := rest, sched := s.sched.tail } := by
  simp [State.endTurn, State.endAccess, hh]

/-- Settles O40, from the bus rule on each side of the aperture's bounds. -/
theorem hostAccessReachesItsRegister : Obligations.HostAccessReachesItsRegister := by
  refine ⟨fun s rest off ht hoff h4 => ⟨fun hh => ?_, fun v hh => ?_⟩, fun s op rest addr width ht hh hop hout => ?_⟩
  · rw [step_of_host_cons ht hh, ← endTurn_endAccess_of_host_cons hh, hostMove_read, busAccess_inside hoff h4]
  · rw [step_of_host_cons ht hh, ← endTurn_endAccess_of_host_cons hh, hostMove_write, busAccess_inside hoff h4]
  · have hnext : step s = .next { s.endTurn.endAccess with resp := .notSelected } := by
      rw [step_of_host_cons ht hh]
      rcases hop with rfl | ⟨v, rfl⟩
      · rw [hostMove_read, busAccess_outside hout]
      · rw [hostMove_write, busAccess_outside hout]
    rw [hnext, endTurn_endAccess_of_host_cons hh]

end Sys2Proof.Proofs
end

section
/-! The reads whose value is free while a command is in flight (20_memory.md R58). -/

namespace Sys2Proof.Proofs
open Sys2Proof Sys2Proof.Machine

theorem openWhileBusy_iff (r : Reg) :
    r.openWhileBusy = true ↔ r.offset = 0x38 ∨ r.offset = 0x3C ∨ r.offset = 0x64 := by
  cases r <;> decide

theorem readIsOpen_iff (s : State) (off : Nat) :
    s.readIsOpen off = true ↔ s.busy = true ∧ (off = 0x38 ∨ off = 0x3C ∨ off = 0x64) := by
  cases hr : regAt off with
  | some r =>
    obtain rfl := offset_of_regAt hr
    simp [State.readIsOpen, openWhileBusy_iff]
  | none =>
    have hreserved : ¬ (off = 0x38 ∨ off = 0x3C ∨ off = 0x64) := by
      rintro (rfl | rfl | rfl) <;> cases hr
    simp [State.readIsOpen, hr, hreserved]

theorem readWord_of_readIsOpen {s : State} {off : Nat} (h : s.readIsOpen off = true) :
    s.readWord off = Config.any32 s.draws := by
  cases hr : regAt off with
  | none => simp [State.readIsOpen, hr] at h
  | some r =>
    have hopen : (s.busy && r.openWhileBusy) = true := by simpa only [State.readIsOpen, hr] using h
    simp only [State.readWord, hr, hopen, if_true]

/-- Settles O31, from which reads are open. -/
theorem openReadsDrawAFreshValue : Obligations.OpenReadsDrawAFreshValue := by
  intro s off
  constructor
  · intro hb hoff
    have hopen : s.readIsOpen off = true := (readIsOpen_iff s off).2 ⟨hb, hoff⟩
    simp only [State.hostRead, hopen, readWord_of_readIsOpen hopen, if_true]
  · intro hclosed
    have hopen : ¬ s.readIsOpen off = true := by
      rw [readIsOpen_iff]
      rintro ⟨hb, hoff⟩
      rcases hclosed with hidle | ⟨h38, h3C, h64⟩
      · cases hb.symm.trans hidle
      · omega
    simp only [State.hostRead, hopen, if_false, Bool.false_eq_true]

end Sys2Proof.Proofs
end

section
/-! The decoder settled word by word (30_encoding.md R82 to R86): the words it accepts are the map's, and the words it refuses fail
a well-formedness check. -/

namespace Sys2Proof.Proofs
open Sys2Proof Sys2Proof.Machine

theorem decode_eq_ok_iff (w : Word) (i : Instr) : decode w = .ok i ↔ w = encode i := by
  constructor
  · exact eq_encode_of_decode
  · rintro rfl
    exact decode_encode i

/-- Settles O1: the decoder inverts the encoder, and each word's fields are its row of the map. -/
theorem decodeAcceptsExactlyTheMapsWords : Obligations.DecodeAcceptsExactlyTheMapsWords := by
  refine ⟨decode_eq_ok_iff, rfl, rfl, rfl, rfl, rfl, rfl, rfl, rfl, fun i => ?_⟩
  obtain ⟨hop, htsel, hrsv, -⟩ := encodeFields i
  exact ⟨hop, htsel, hrsv⟩

/-! ### The well-formedness checks -/

theorem fieldsOk_iff (op : BitVec 8) (tsel : BitVec 2) (rsv : BitVec 22) :
    fieldsOk op tsel rsv = true ↔ rsv = 0 ∧ op.toNat ≤ 5 ∧ if op = 0x02 then tsel ≠ 0 else tsel = 0 := by
  by_cases hop : op = 0x02 <;> simp [fieldsOk, rsvOk, opOk, tselOk, hop, and_assoc]

/-- A triple of fields fails the checks in one of the four ways of 30_encoding.md R86. -/
theorem not_fieldsOk_iff (op : BitVec 8) (tsel : BitVec 2) (rsv : BitVec 22) :
    ¬ fieldsOk op tsel rsv = true ↔
      0x06 ≤ op.toNat ∨ rsv ≠ 0 ∨ (op = 0x02 ∧ tsel = 0) ∨ (op ≠ 0x02 ∧ tsel ≠ 0) := by
  have hunassigned : ¬ op.toNat ≤ 5 ↔ 6 ≤ op.toNat := by omega
  rw [fieldsOk_iff, ← hunassigned]
  by_cases hop : op = 0x02
  · rw [if_pos hop]; tauto
  · rw [if_neg hop]; tauto

/-- Fields that pass the checks are a row of the opcode map (30_encoding.md R84). -/
theorem exists_instr_of_fieldsOk {op : BitVec 8} {tsel : BitVec 2} {rsv : BitVec 22}
    (h : fieldsOk op tsel rsv = true) : ∃ i : Instr, op = i.op ∧ tsel = i.tsel ∧ rsv = 0 := by
  obtain ⟨hrsv, hop, htsel⟩ := (fieldsOk_iff op tsel rsv).1 h
  by_cases h2 : op = 0x02
  · rw [if_pos h2] at htsel
    have hselected : tsel = 1 ∨ tsel = 2 ∨ tsel = 3 := by bv_omega
    rcases hselected with ht | ht | ht
    · exact ⟨.genTable1, h2, ht, hrsv⟩
    · exact ⟨.genTable2, h2, ht, hrsv⟩
    · exact ⟨.genTable3, h2, ht, hrsv⟩
  · rw [if_neg h2] at htsel
    have hassigned : op = 0 ∨ op = 1 ∨ op = 3 ∨ op = 4 ∨ op = 5 := by bv_omega
    rcases hassigned with ho | ho | ho | ho | ho
    · exact ⟨.nop, ho, htsel, hrsv⟩
    · exact ⟨.keyExpand, ho, htsel, hrsv⟩
    · exact ⟨.encCtr, ho, htsel, hrsv⟩
    · exact ⟨.encPos, ho, htsel, hrsv⟩
    · exact ⟨.resetCtr, ho, htsel, hrsv⟩

/-- The decoder, written as R85's order of tests, accepts exactly the words whose fields pass the checks. -/
theorem exists_decode_eq_ok_iff (w : Word) :
    (∃ i, decode w = .ok i) ↔ fieldsOk (opField w) (tselField w) (rsvField w) = true := by
  constructor
  · rintro ⟨i, hi⟩
    obtain ⟨hop, htsel, hrsv⟩ := fields_of_decode hi
    obtain ⟨-, -, -, hwf⟩ := encodeFields i
    rw [hop, htsel, hrsv]
    exact hwf
  · intro h
    obtain ⟨i, hop, htsel, hrsv⟩ := exists_instr_of_fieldsOk h
    obtain ⟨eop, etsel, ersv, -⟩ := encodeFields i
    have hw : w = encode i := word_eq_of_fields (hop.trans eop.symm) (htsel.trans etsel.symm) (hrsv.trans ersv.symm)
    exact ⟨i, (decode_eq_ok_iff w i).2 hw⟩

theorem exists_decode_eq_error_iff (w : Word) : (∃ e, decode w = .error e) ↔ ¬ ∃ i, decode w = .ok i := by
  cases decode w <;> simp

/-- Settles O2: the refused words are those that are not accepted, and the accepted ones pass the checks. -/
theorem illegalWordsAreTheFourKinds : Obligations.IllegalWordsAreTheFourKinds := by
  intro w
  refine ⟨?_, exists_decode_eq_ok_iff w⟩
  rw [exists_decode_eq_error_iff, exists_decode_eq_ok_iff, not_fieldsOk_iff]

/-- Settles O3: the legal words are encodings, and on each illegal one the decoder runs to the first test that fails. -/
theorem sampleWordsDecode : Obligations.SampleWordsDecode :=
  ⟨decode_encode .nop, decode_encode .keyExpand, decode_encode .genTable3, decode_encode .encCtr, decode_encode .encPos,
    decode_encode .resetCtr, rfl, rfl, rfl, rfl, rfl⟩

end Sys2Proof.Proofs
end

section
/-! What a command leaves alone: its inputs, `eng.cmd`, and every valid bit that is set (30_encoding.md R88; 60_exceptions.md
R207). -/

namespace Sys2Proof.Proofs
open Sys2Proof Sys2Proof.Machine

/-- No command writes `eng.cmd`. -/
theorem exec_cmd {i : Instr} {s u : State} (h : exec i s = .next u) : u.cmd = s.cmd := by
  rcases exec_cases h with ⟨-, rfl⟩ | ⟨-, rfl⟩ | ⟨t, -, rfl⟩ | ⟨-, d0, d1, rfl⟩ | ⟨-, d0, d1, rfl⟩ | ⟨-, rfl⟩ <;> rfl

/-- No command writes an input register. -/
theorem exec_keeps_inputs {i : Instr} {s u : State} (h : exec i s = .next u) : u = withInputsOf u s := by
  rcases exec_cases h with ⟨-, rfl⟩ | ⟨-, rfl⟩ | ⟨t, -, rfl⟩ | ⟨-, d0, d1, rfl⟩ | ⟨-, d0, d1, rfl⟩ | ⟨-, rfl⟩ <;> rfl

theorem exec_keeps_keysValid {i : Instr} {s u : State} (h : exec i s = .next u) (hv : s.keysValid = true) :
    u.keysValid = true := by
  rcases exec_keys h with ⟨-, hset⟩ | ⟨-, -, hsame⟩
  · exact hset
  · exact hsame.trans hv

theorem exec_keeps_tableValid {i : Instr} {s u : State} (h : exec i s = .next u) (t : TableId)
    (hv : tableValid s t = true) : tableValid u t = true := by
  rcases exec_table h t with ⟨-, hset⟩ | ⟨-, hsame, -⟩
  · exact hset
  · exact hsame.trans hv

theorem exec_keeps_dout {i : Instr} {s u : State} (h : exec i s = .next u) (hc : isCipher i = false) :
    u.dout0 = s.dout0 ∧ u.dout1 = s.dout1 := by
  rcases exec_dout h with (rfl | rfl) | hkept
  · cases hc
  · cases hc
  · exact hkept

/-- Settles O12, from what the completion of any command keeps. -/
theorem everyCommandCompletesAndKeepsItsInputs : Obligations.EveryCommandCompletesAndKeepsItsInputs := by
  intro s i
  obtain ⟨u, h⟩ := exec_completes i s
  obtain ⟨herr, hcode⟩ := exec_record h
  have kept {α : Type} (field : State → α) : field u = field (withInputsOf u s) := congrArg field (exec_keeps_inputs h)
  exact ⟨u, h, exec_busy h, exec_cmd h, herr, hcode,
    kept State.key0, kept State.key1, kept State.key2, kept State.seed0, kept State.seed1, kept State.seed2,
    kept State.din0, kept State.din1, kept State.pidxLo, kept State.pidxHi, kept State.psizeLo, kept State.psizeHi,
    kept State.boffLo, kept State.boffHi, kept State.ctxIndex,
    exec_keeps_keysValid h, exec_keeps_tableValid h .t1, exec_keeps_tableValid h .t2, exec_keeps_tableValid h .t3,
    exec_keeps_dout h⟩

end Sys2Proof.Proofs
end

section
/-! The poll of `wait` (30_encoding.md R91). -/

namespace Sys2Proof.Proofs
open Sys2Proof Sys2Proof.Machine

/-- A read of `STATUS` is never open, so it answers the word and draws nothing (20_memory.md R56). -/
theorem hostRead_status (s : State) : s.hostRead 0x04 = { s with resp := .data s.statusWord } := by
  have hword : s.readWord 0x04 = s.statusWord := readWord_offset (r := .status) (.inr rfl)
  have hclosed : ¬ s.readIsOpen 0x04 = true := by simp [readIsOpen_iff]
  simp only [State.hostRead, hword, hclosed, if_false, Bool.false_eq_true]

@[simp] theorem statusWord_endTurn (s : State) : s.endTurn.statusWord = s.statusWord := rfl
@[simp] theorem statusWord_endAccess (s : State) : s.endAccess.statusWord = s.statusWord := rfl

/-- A poll answers `STATUS`, and keeps its place at the head of the queue while a command is in flight. -/
theorem hostMove_pollBusy (s : State) :
    s.hostMove .pollBusy = .next { s with host := if s.busy then s.host else s.host.tail, resp := .data s.statusWord } := by
  have hread : s.hostMove .pollBusy = .next (if s.busy then s.hostRead 0x04 else s.endAccess.hostRead 0x04) := rfl
  by_cases hb : s.busy = true
  · rw [hread, if_pos hb, if_pos hb, hostRead_status]
  · rw [hread, if_neg hb, if_neg hb, hostRead_status, statusWord_endAccess]
    rfl

/-- Settles O41: the host's turn is the poll's move. -/
theorem pollRepeatsWhileBusy : Obligations.PollRepeatsWhileBusy := by
  intro s rest ht hh
  rw [step_of_host_cons ht hh, hostMove_pollBusy]
  simp [hh]

end Sys2Proof.Proofs
end

section
/-! The rotations and the byte reversal (40_datapath.md R100, R101, R102). -/

namespace Sys2Proof.Proofs
open Sys2Proof Sys2Proof.Machine

theorem ror32_eq_rotateRight (v : Word) {n : Nat} (h : n < 32) : ror32 v n = v.rotateRight n :=
  (BitVec.rotateRight_eq_rotateRightAux_of_lt h).symm

theorem rol32_eq_rotateLeft (v : Word) {n : Nat} (h : n < 32) : rol32 v n = v.rotateLeft n :=
  (BitVec.rotateLeft_eq_rotateLeftAux_of_lt h).symm

/-- A rotation to the right takes bit `i` from `n` places further up, around the end of the word. -/
theorem getLsbD_ror32 (v : Word) {n i : Nat} (hn : n < 32) (hi : i < 32) :
    (ror32 v n).getLsbD i = if i < 32 - n then v.getLsbD (n + i) else v.getLsbD (i - (32 - n)) := by
  rw [ror32_eq_rotateRight v hn, BitVec.getLsbD_rotateRight_of_lt hn]
  by_cases h : i < 32 - n <;> simp [h, hi]

/-- A rotation to the left takes bit `i` from `n` places further down, around the end of the word. -/
theorem getLsbD_rol32 (v : Word) {n i : Nat} (hn : n < 32) (hi : i < 32) :
    (rol32 v n).getLsbD i = if i < n then v.getLsbD (32 - n + i) else v.getLsbD (i - n) := by
  rw [rol32_eq_rotateLeft v hn, BitVec.getLsbD_rotateLeft_of_le hn]
  by_cases h : i < n <;> simp [h, hi]

theorem rol32_ror32 (v : Word) {n : Nat} (hn : n < 32) : rol32 (ror32 v n) n = v := by
  apply BitVec.eq_of_getLsbD_eq; intro i hi
  rw [getLsbD_rol32 _ hn hi]
  by_cases h : i < n
  · rw [if_pos h, getLsbD_ror32 v hn (by omega), if_neg (by omega), Nat.add_sub_cancel_left]
  · rw [if_neg h, getLsbD_ror32 v hn (by omega), if_pos (by omega), Nat.add_sub_cancel' (by omega)]

theorem ror32_rol32 (v : Word) {n : Nat} (hn : n < 32) : ror32 (rol32 v n) n = v := by
  apply BitVec.eq_of_getLsbD_eq; intro i hi
  rw [getLsbD_ror32 _ hn hi]
  by_cases h : i < 32 - n
  · rw [if_pos h, getLsbD_rol32 v hn (by omega), if_neg (by omega), Nat.add_sub_cancel_left]
  · rw [if_neg h, getLsbD_rol32 v hn (by omega), if_pos (by omega), Nat.add_sub_cancel' (by omega)]

/-- The low byte comes to the top: `v[7:0] || v[31:8]`. -/
theorem ror32_eight (v : Word) : ror32 v 8 = v.extractLsb' 0 8 ++ v.extractLsb' 8 24 := by
  apply BitVec.eq_of_getLsbD_eq; intro i hi
  rw [getLsbD_ror32 v (by decide) hi, BitVec.getLsbD_append]
  by_cases h : i < 24
  · simp [h]
  · simp [h, show i - 24 < 8 by omega]

/-- The top three bits come to the bottom: `v[28:0] || v[31:29]`. -/
theorem rol32_three (v : Word) : rol32 v 3 = v.extractLsb' 0 29 ++ v.extractLsb' 29 3 := by
  apply BitVec.eq_of_getLsbD_eq; intro i hi
  rw [getLsbD_rol32 v (by decide) hi, BitVec.getLsbD_append]
  by_cases h : i < 3
  · simp [h]
  · simp [h, show i - 3 < 29 by omega]

theorem bswap32_eq_append (v : Word) :
    bswap32 v = v.extractLsb' 0 8 ++ v.extractLsb' 8 8 ++ v.extractLsb' 16 8 ++ v.extractLsb' 24 8 := rfl

/-- Byte `k` of the reversed word is byte `3 - k` of the word, so reversing twice puts each byte back. -/
theorem bswap32_bswap32 (v : Word) : bswap32 (bswap32 v) = v := by
  rw [bswap32, bswap32, byteOf_wordOf_0, byteOf_wordOf_1, byteOf_wordOf_2, byteOf_wordOf_3, wordOf_byteOf]

/-- Settles O23: the rotations are the library's, the slices follow bit by bit, and the byte reversal byte by byte. -/
theorem rotationsAndByteSwapMoveTheBits : Obligations.RotationsAndByteSwapMoveTheBits :=
  ⟨fun v _ _ hn => ⟨ror32_eq_rotateRight v (by omega), rol32_eq_rotateLeft v (by omega)⟩,
    fun v => ⟨ror32_eight v, rol32_three v⟩, by decide, by decide, bswap32_eq_append, bswap32_bswap32, by decide⟩

end Sys2Proof.Proofs
end

section
/-! The ARX round is undone by its inverse, so the rounds lose nothing (40_datapath.md R103, R104, R105). -/

namespace Sys2Proof.Proofs
open Sys2Proof Sys2Proof.Machine

/-- Going back, the XOR of the two outputs is the rotated `y`; with `y` known, the key and the sum come off `x`. -/
theorem arxInv_arx (x y k : Word) : arxInv (arx x y k).1 (arx x y k).2 k = (x, y) := by
  have hy (x1 : Word) : ror32 ((rol32 y 3 ^^^ x1) ^^^ x1) 3 = y := by
    rw [xor_cancel_right, ror32_rol32 y (by decide)]
  have hx : rol32 ((((ror32 x 8 + y) ^^^ k) ^^^ k) - y) 8 = x := by
    rw [xor_cancel_right, BitVec.add_sub_cancel, rol32_ror32 x (by decide)]
  simp only [arxInv, arx, hy, hx]

/-- Going forward from the recovered pair, the rotations and XORs of the inverse come off in the opposite order. -/
theorem arx_arxInv (x1 y1 k : Word) : arx (arxInv x1 y1 k).1 (arxInv x1 y1 k).2 k = (x1, y1) := by
  have hx (y : Word) : (ror32 (rol32 ((x1 ^^^ k) - y) 8) 8 + y) ^^^ k = x1 := by
    rw [ror32_rol32 _ (by decide), BitVec.sub_add_cancel, xor_cancel_right]
  have hy : rol32 (ror32 (y1 ^^^ x1) 3) 3 ^^^ x1 = y1 := by
    rw [rol32_ror32 _ (by decide), xor_cancel_right]
  simp only [arx, arxInv, hx, hy]

theorem arx_bijective (k : Word) : Function.Bijective fun p : Word × Word => arx p.1 p.2 k :=
  Function.bijective_iff_has_inverse.2
    ⟨fun p => arxInv p.1 p.2 k, fun p => arxInv_arx p.1 p.2 k, fun p => arx_arxInv p.1 p.2 k⟩

/-- By induction on the count: the last round is one more bijection after the others. -/
theorem rounds_bijective (rk : KeyFile) (first count : Nat) :
    Function.Bijective fun p : Word × Word => rounds rk p.1 p.2 first count := by
  induction count with
  | zero => exact Function.bijective_id
  | succ n ih =>
    simp only [rounds_succ]
    exact (arx_bijective (roundKey rk (first + n))).comp ih

/-- Settles O22, from the two cancellations of one round and the induction over the rounds. -/
theorem arxRoundIsInvertible : Obligations.ArxRoundIsInvertible :=
  ⟨fun _ _ _ => ⟨rfl, rfl⟩, fun x y k => ⟨arxInv_arx x y k, arx_arxInv x y k⟩, rounds_bijective⟩

end Sys2Proof.Proofs
end

section
/-! `Compose` (40_datapath.md R107). -/

namespace Sys2Proof.Proofs
open Sys2Proof Sys2Proof.Machine

theorem compose_identityTable (A : Table) : compose A identityTable = A :=
  table_ext fun x => by rw [lookup_compose, lookup_identityTable]

theorem identityTable_compose (A : Table) : compose identityTable A = A :=
  table_ext fun x => by rw [lookup_compose, lookup_identityTable]

/-- Settles O25, from the entry law `lookup_compose`. -/
theorem composeAppliesTheSecondTableFirst : Obligations.ComposeAppliesTheSecondTableFirst :=
  ⟨lookup_compose, fun _ _ => compose_isPermutation, fun A => ⟨compose_identityTable A, identityTable_compose A⟩⟩

end Sys2Proof.Proofs
end

section
/-! The two cipher commands on one block (43_stream_transform.md R142 to R148; 44_packet_transform.md R162, R163). -/

namespace Sys2Proof.Proofs
open Sys2Proof Sys2Proof.Machine

/-- `Evolve()` with its two conditions as the rule words them (43_stream_transform.md R143). -/
theorem evolve_eq (s : State) : s.evolve = { s with
    evoMinor := if 2000 ≤ (s.evoMinor + 1).toNat then 0 else s.evoMinor + 1
    evoMajor := if 2000 ≤ (s.evoMinor + 1).toNat ∧ 4000000 ≤ (s.evoMajor + 1).toNat then 0 else s.evoMajor + 1
    t1 := if 2000 ≤ (s.evoMinor + 1).toNat then compose s.t2 s.t1 else s.t1
    t2 := if 2000 ≤ (s.evoMinor + 1).toNat ∧ 4000000 ≤ (s.evoMajor + 1).toNat then compose s.t3 s.t2 else s.t2 } := by
  simp only [State.evolve, minorFires_iff, majorFires_iff]

/-- Settles O9: neither the output nor the counter is what the evolution reads, so it takes its counters and tables from before
the call. -/
theorem encCtrTransformsOneBlock : Obligations.EncCtrTransformsOneBlock := by
  intro s
  rw [exec_encCtr, evolve_eq]
  rfl

/-! ### The counter -/

/-- Below 0xFFFFFFFF the low half takes the increment alone. -/
theorem joinWords_add_one_of_ne {lo : Word} (h : lo ≠ 0xFFFFFFFF) (hi : Word) :
    joinWords hi lo + 1 = joinWords hi (lo + 1) := by
  apply BitVec.eq_of_toNat_eq
  rw [BitVec.toNat_add, joinWords_toNat, joinWords_toNat]
  bv_omega

/-- At 0xFFFFFFFF the low half carries into the high one, which itself wraps. -/
theorem joinWords_allOnes_add_one (hi : Word) : joinWords hi 0xFFFFFFFF + 1 = joinWords (hi + 1) 0 := by
  apply BitVec.eq_of_toNat_eq
  rw [BitVec.toNat_add, joinWords_toNat, joinWords_toNat]
  bv_omega

theorem halves_of_eq_joinWords {c : DWord} {hi lo : Word} (h : c = joinWords hi lo) : lowWord c = lo ∧ highWord c = hi := by
  rw [h]
  exact ⟨lowWord_joinWords hi lo, highWord_joinWords hi lo⟩

/-- Settles O17: the halves the command writes are those of the incremented counter, which the two cases of the carry give. -/
theorem counterCarriesAndWraps : Obligations.CounterCarriesAndWraps := by
  intro s
  refine ⟨_, encCtrTransformsOneBlock s, ?_, fun hne => ?_, fun heq => ?_, rfl, rfl⟩
  · exact joinWords_halves (s.ctr + 1)
  · exact halves_of_eq_joinWords (joinWords_add_one_of_ne hne s.ctrHi)
  · exact halves_of_eq_joinWords (by rw [heq, joinWords_allOnes_add_one])

/-! ### The published vector -/

/-- With Table1 the identity the keystream is the rounds' words themselves. -/
theorem keystream_of_identityTable {s : State} (h : s.t1 = identityTable) (lo hi : Word) (first count : Nat) :
    s.keystream lo hi first count = rounds s.rk (bswap32 hi) (bswap32 lo) first count := by
  simp only [State.keystream, h, subWord_identityTable]

/-- A zero block comes out as the keystream. -/
theorem exec_encPos_zero_block {s : State} (h0 : s.din0 = 0) (h1 : s.din1 = 0) :
    ∃ t : State, exec .encPos s = .next t ∧ (t.dout0, t.dout1) = s.posKeystream := by
  refine ⟨_, exec_encPos s, ?_⟩
  simp [h0, h1]

/-- Speck64/96 on its published plaintext, with the published key expanded. -/
theorem rounds_speckVector :
    rounds (keyExpand 0x03020100 0x0B0A0908 0x13121110) 0x74614620 0x736E6165 0 26 = (0x9F7952EC, 0x4175946C) := by
  decide +kernel

theorem encPos_zero_block_identityTable {s : State} (ht : s.t1 = identityTable) (h0 : s.din0 = 0) (h1 : s.din1 = 0) :
    ∃ t : State, exec .encPos s = .next t ∧
      (t.dout0, t.dout1) = rounds s.rk (bswap32 (highWord s.positionNonce)) (bswap32 (lowWord s.positionNonce)) 0 26 := by
  rw [← keystream_of_identityTable ht]
  exact exec_encPos_zero_block h0 h1

/-- Settles O21: the position's nonce is the vector's plaintext, its halves byte-reversed. -/
theorem encPosWithIdentityTableIsSpeck : Obligations.EncPosWithIdentityTableIsSpeck := by
  refine ⟨fun s => encPos_zero_block_identityTable, fun s ht h0 h1 hk hi hp ho => ?_⟩
  obtain ⟨t, hx, hout⟩ := encPos_zero_block_identityTable ht h0 h1
  have hnonce : s.positionNonce = 0x2046617465616E73 := by rw [State.positionNonce, hi, hp, ho]; decide
  have hhi : bswap32 (highWord 0x2046617465616E73) = 0x74614620 := by decide
  have hlo : bswap32 (lowWord 0x2046617465616E73) = 0x736E6165 := by decide
  rw [hnonce, hhi, hlo, hk, rounds_speckVector] at hout
  exact ⟨t, hx, congrArg Prod.fst hout, congrArg Prod.snd hout⟩

end Sys2Proof.Proofs
end

section
/-! The keyed permutation generator, step by step (41_table_generation.md R120, R122). -/

namespace Sys2Proof.Proofs
open Sys2Proof Sys2Proof.Machine

theorem swapEntries_self (T : Table) (i : Byte) : swapEntries T i i = T :=
  table_ext fun x => by rw [lookup_swapEntries, Equiv.swap_self, Equiv.refl_apply]

/-- Settles O26: the generator only swaps entries, and swapping an entry with itself does nothing. -/
theorem permGenIsAPermutation : Obligations.PermGenIsAPermutation := by
  refine ⟨permGen_isPermutation, fun seed T j n hj => ?_⟩
  rw [permGenStep_table, hj, swapEntries_self]

theorem permGenStep_accumulator (seed : Seed) (p : Table × Byte) (n : Nat) (h : n % 12 < 12) :
    (permGenStep seed p n).2 = p.2 + lookup p.1 (BitVec.ofNat 8 n + seed[n % 12]) + seed[n % 12] := rfl

theorem lookup_swapEntries_left (T : Table) (i j : Byte) : lookup (swapEntries T i j) i = lookup T j := by
  rw [lookup_swapEntries, Equiv.swap_apply_left]

theorem lookup_swapEntries_right (T : Table) (i j : Byte) : lookup (swapEntries T i j) j = lookup T i := by
  rw [lookup_swapEntries, Equiv.swap_apply_right]

theorem lookup_swapEntries_of_ne (T : Table) {i j x : Byte} (hi : x ≠ i) (hj : x ≠ j) :
    lookup (swapEntries T i j) x = lookup T x := by
  rw [lookup_swapEntries, Equiv.swap_apply_of_ne_of_ne hi hj]

/-- Settles O27: the rule's tables and accumulators are those of the generator's first `i` steps. -/
theorem permGenFollowsTheLoop : Obligations.PermGenFollowsTheLoop := by
  intro seed
  refine ⟨fun i => (permGenSteps seed i).1, fun i => (permGenSteps seed i).2, lookup_identityTable, rfl, rfl, fun i h _ => ?_⟩
  simp only [permGenSteps_succ, permGenStep_table]
  exact ⟨permGenStep_accumulator seed _ i h, lookup_swapEntries_left .., lookup_swapEntries_right ..,
    fun x hi hj => lookup_swapEntries_of_ne _ hi hj⟩

end Sys2Proof.Proofs
end

section
/-! The round-key schedule and `KEY_EXPAND` (42_key_schedule.md R130, R131, R132). -/

namespace Sys2Proof.Proofs
open Sys2Proof Sys2Proof.Machine

/-! ### One step of the recurrence -/

/-- An even step advances `(B, A)` and keeps `C`. -/
theorem keyState_succ_of_even (A B C : Word) {i : Nat} (h : i % 2 = 0) :
    ((keyState A B C (i + 1)).2.1, (keyState A B C (i + 1)).1) =
        arx (keyState A B C i).2.1 (keyState A B C i).1 (BitVec.ofNat 32 i) ∧
      (keyState A B C (i + 1)).2.2 = (keyState A B C i).2.2 := by
  rw [keyState, if_pos h]
  exact ⟨rfl, rfl⟩

/-- An odd step advances `(C, A)` and keeps `B`. -/
theorem keyState_succ_of_odd (A B C : Word) {i : Nat} (h : i % 2 = 1) :
    ((keyState A B C (i + 1)).2.2, (keyState A B C (i + 1)).1) =
        arx (keyState A B C i).2.2 (keyState A B C i).1 (BitVec.ofNat 32 i) ∧
      (keyState A B C (i + 1)).2.1 = (keyState A B C i).2.1 := by
  rw [keyState, if_neg (by omega)]
  exact ⟨rfl, rfl⟩

/-- Settles O28: the rule's three sequences are the components of the schedule's running values, and the round keys are the
first of them. -/
theorem keyScheduleFollowsTheRecurrence : Obligations.KeyScheduleFollowsTheRecurrence := by
  intro A B C
  refine ⟨fun i => (keyState A B C i).1, fun i => (keyState A B C i).2.1, fun i => (keyState A B C i).2.2, rfl, rfl, rfl,
    fun i => keyExpand_getElem A B C i i.isLt, fun i _ => ⟨?even, ?odd⟩⟩
  case even => exact keyState_succ_of_even A B C
  case odd => exact keyState_succ_of_odd A B C

/-! ### The command and the reference expansion -/

/-- Settles O7: the command writes the key file with its valid bit, and completes. -/
theorem keyExpandReplacesTheRoundKeys : Obligations.KeyExpandReplacesTheRoundKeys :=
  exec_keyExpand

/-- The round keys of the published Speck64/96 key. -/
theorem keyExpand_speckKey :
    (keyExpand 0x03020100 0x0B0A0908 0x13121110).toList =
      [0x03020100, 0x131D0309, 0xBBD80D53, 0x1A2370C1, 0xE45D26DD, 0x63CB3F1C, 0x27597D5A, 0x205175B4, 0xDB01DB9F, 0x9812AAC8,
        0x16796373, 0xFF72647B, 0xCCDA7364, 0xD6F4B7C9, 0x2589BF5A, 0x39741C59, 0x85A6AA9C, 0x208EB076, 0x71A9351E, 0x8EFF59E3,
        0x498FF996, 0x15EC7C21, 0x0F49104A, 0xD8EA21BC, 0xDCDB415C, 0x2FA7E901] := by
  decide +kernel

/-- Settles O29: the published key's expansion, and the published plaintext's 26 rounds with it. -/
theorem keyScheduleMatchesTheReferenceExpansion : Obligations.KeyScheduleMatchesTheReferenceExpansion :=
  ⟨keyExpand_speckKey, rounds_speckVector⟩

end Sys2Proof.Proofs
end

section
/-! The evolution of either cipher command, one call at a time and over any number of calls (43_stream_transform.md R143, R144,
R150; 44_packet_transform.md R162). -/

namespace Sys2Proof.Proofs
open Sys2Proof Sys2Proof.Machine

/-- Settles O10: the output words are not what the evolution reads, so it takes its counters and tables from before the call. -/
theorem encPosTransformsOneBlock : Obligations.EncPosTransformsOneBlock := by
  intro s
  rw [exec_encPos, evolve_eq]
  rfl

/-! ### One call -/

/-- `t` agrees with `s` in what `Evolve()` reads and writes (43_stream_transform.md R143). -/
structure SameEvolution (s t : State) : Prop where
  t1 : t.t1 = s.t1
  t2 : t.t2 = s.t2
  t3 : t.t3 = s.t3
  evoMinor : t.evoMinor = s.evoMinor
  evoMajor : t.evoMajor = s.evoMajor

/-- Both cipher commands evolve the state they start from: what else they write, `Evolve()` neither reads nor writes. -/
theorem exec_cipher_evolves {i : Instr} {s t : State} (hc : isCipher i = true) (h : exec i s = .next t) :
    SameEvolution s.evolve t := by
  cases i with
  | encCtr => cases h; exact ⟨rfl, rfl, rfl, rfl, rfl⟩
  | encPos => cases h; exact ⟨rfl, rfl, rfl, rfl, rfl⟩
  | nop | keyExpand | genTable1 | genTable2 | genTable3 | resetCtr => cases hc

/-- Everything a cipher command can do to the tables and the evolution counters: no recombination, Table1 alone, or both tables
(43_stream_transform.md R143, R144). -/
theorem exec_cipher_cases {i : Instr} {s t : State} (hc : isCipher i = true) (h : exec i s = .next t) :
    t.t3 = s.t3 ∧
    (((s.evoMinor + 1).toNat < 2000 ∧
      t.t1 = s.t1 ∧ t.t2 = s.t2 ∧ t.evoMinor = s.evoMinor + 1 ∧ t.evoMajor = s.evoMajor + 1) ∨
    (2000 ≤ (s.evoMinor + 1).toNat ∧ (s.evoMajor + 1).toNat < 4000000 ∧
      t.t1 = compose s.t2 s.t1 ∧ t.t2 = s.t2 ∧ t.evoMinor = 0 ∧ t.evoMajor = s.evoMajor + 1) ∨
    (2000 ≤ (s.evoMinor + 1).toNat ∧ 4000000 ≤ (s.evoMajor + 1).toNat ∧
      t.t1 = compose s.t2 s.t1 ∧ t.t2 = compose s.t3 s.t2 ∧ t.evoMinor = 0 ∧ t.evoMajor = 0)) := by
  have e := exec_cipher_evolves hc h
  refine ⟨e.t3, ?_⟩
  rcases evolve_cases s with ⟨hminor, he⟩ | ⟨hminor, hmajor, he⟩ | ⟨hminor, hmajor, he⟩ <;> rw [he] at e
  · exact .inl ⟨hminor, e.t1, e.t2, e.evoMinor, e.evoMajor⟩
  · exact .inr (.inl ⟨hminor, hmajor, e.t1, e.t2, e.evoMinor, e.evoMajor⟩)
  · exact .inr (.inr ⟨hminor, hmajor, e.t1, e.t2, e.evoMinor, e.evoMajor⟩)

/-- Settles O13, by the three cases of the evolution. -/
theorem evolutionOrder : Obligations.EvolutionOrder := by
  intro s i hc
  obtain ⟨t, h⟩ := exec_completes i s
  obtain ⟨ht3, hcases⟩ := exec_cipher_cases hc h
  refine ⟨t, h, ht3, ?_⟩
  rcases hcases with ⟨_, h1, h2, hminor, hmajor⟩ | ⟨_, _, h1, h2, hminor, hmajor⟩ | ⟨_, _, h1, h2, hminor, hmajor⟩
  · exact ⟨fun _ => by omega, fun _ => by omega, fun _ => by omega, fun _ => ⟨h1, h2, hminor, hmajor⟩⟩
  · exact ⟨fun _ => ⟨h1, hminor⟩, fun _ _ => by omega, fun _ _ => ⟨h2, hmajor⟩, fun _ => by omega⟩
  · exact ⟨fun _ => ⟨h1, hminor⟩, fun _ _ => ⟨h1, h2, hmajor⟩, fun _ _ => by omega, fun _ => by omega⟩

/-- Below the minor limit a cipher command keeps Table1 and counts. -/
theorem exec_cipher_below_limit {i : Instr} {s t : State} (hc : isCipher i = true) (h : exec i s = .next t)
    (hm : (s.evoMinor + 1).toNat < 2000) : t.t1 = s.t1 ∧ t.evoMinor = s.evoMinor + 1 := by
  obtain ⟨t', h', -, -, -, -, below⟩ := evolutionOrder s i hc
  obtain ⟨ht1, -, hminor, -⟩ := below hm
  cases h.symm.trans h'
  exact ⟨ht1, hminor⟩

/-! ### Any number of calls -/

/-- A property of the call count and the state that holds at the start, and that completing any command of the list carries from
one count to the next, holds after the whole list. Every command completes, so the list does. -/
theorem execAll_induction {P : Nat → State → Prop} {cs : List Instr} {s : State} (start : P 0 s)
    (next : ∀ n u t, ∀ i ∈ cs, P n u → exec i u = .next t → P (n + 1) t) :
    ∃ t, execAll cs s = .next t ∧ P cs.length t := by
  induction cs generalizing P s with
  | nil => exact ⟨s, rfl, start⟩
  | cons i is ih =>
    obtain ⟨u, hu⟩ := exec_completes i s
    obtain ⟨t, ht, hP⟩ := ih (P := fun n => P (n + 1)) (next 0 s u i List.mem_cons_self start hu)
      fun n v t j hj => next (n + 1) v t j (List.mem_cons_of_mem i hj)
    exact ⟨t, by rw [execAll, hu]; exact ht, hP⟩

theorem toNat_zero : (0 : Word).toNat = 0 := rfl

theorem tablesAfterCalls_succ {T3 A B : Table} {start : Table × Table} {n : Nat}
    (h : tablesAfterCalls T3 start n = (A, B)) :
    tablesAfterCalls T3 start (n + 1) =
      (if (n + 1) % 2000 = 0 then compose B A else A, if (n + 1) % 4000000 = 0 then compose T3 B else B) := by
  rw [tablesAfterCalls, h]

/-- `t` is what `n` calls of `Evolve()` make of `s`, its counters 0 (43_stream_transform.md R150). -/
structure EvolvedBy (s : State) (n : Nat) (t : State) : Prop where
  tables : tablesAfterCalls s.t3 (s.t1, s.t2) n = (t.t1, t.t2)
  t3 : t.t3 = s.t3
  evoMinor : t.evoMinor.toNat = n % 2000
  evoMajor : t.evoMajor.toNat = n % 4000000

/-- The limits are reached exactly at the multiples: 4000000 is a multiple of 2000, so no major count waits past its limit. -/
theorem EvolvedBy.exec_cipher {i : Instr} {s u t : State} {n : Nat} (h : EvolvedBy s n u) (hc : isCipher i = true)
    (hx : exec i u = .next t) : EvolvedBy s (n + 1) t := by
  have minorCount : (u.evoMinor + 1).toNat = n % 2000 + 1 := by
    rw [toNat_add_one (by rw [h.evoMinor]; omega), h.evoMinor]
  have majorCount : (u.evoMajor + 1).toNat = n % 4000000 + 1 := by
    rw [toNat_add_one (by rw [h.evoMajor]; omega), h.evoMajor]
  have htables := tablesAfterCalls_succ h.tables
  obtain ⟨ht3, hcases⟩ := exec_cipher_cases hc hx
  rw [h.t3] at ht3 hcases
  rcases hcases with ⟨_, h1, h2, hminor, hmajor⟩ | ⟨_, _, h1, h2, hminor, hmajor⟩ | ⟨_, _, h1, h2, hminor, hmajor⟩
  · rw [if_neg (by omega), if_neg (by omega), ← h1, ← h2] at htables
    exact ⟨htables, ht3, by rw [hminor]; omega, by rw [hmajor]; omega⟩
  · rw [if_pos (by omega), if_neg (by omega), ← h1, ← h2] at htables
    exact ⟨htables, ht3, by rw [hminor, toNat_zero]; omega, by rw [hmajor]; omega⟩
  · rw [if_pos (by omega), if_pos (by omega), ← h1, ← h2] at htables
    exact ⟨htables, ht3, by rw [hminor, toNat_zero]; omega, by rw [hmajor, toNat_zero]; omega⟩

/-- Settles O19, by induction over the calls. -/
theorem evolutionFollowsTheCallCount : Obligations.EvolutionFollowsTheCallCount := by
  intro cs s hcs hminor hmajor
  have start : EvolvedBy s 0 s := ⟨rfl, rfl, by rw [hminor]; rfl, by rw [hmajor]; rfl⟩
  obtain ⟨t, ht, h⟩ := execAll_induction start fun n u t i hi hu => hu.exec_cipher (hcs i hi)
  exact ⟨t, ht, h.tables.symm, h.t3, h.evoMinor, h.evoMajor⟩

end Sys2Proof.Proofs
end

section
/-! The round-key offset over successive `ENC_CTR` (43_stream_transform.md R149). -/

namespace Sys2Proof.Proofs
open Sys2Proof Sys2Proof.Machine

theorem exec_encCtr_rkOffset {s t : State} (h : exec .encCtr s = .next t) :
    t.rkOffset.toNat = (s.rkOffset.toNat + 7) % 18 := by
  cases h
  simp only [State.finish_rkOffset, State.advanceOffset_rkOffset, State.evolve_rkOffset, State.setCtr_rkOffset,
    State.setDout_rkOffset, BitVec.toNat_ofNat]
  omega

theorem execAll_encCtr_rkOffset (n : Nat) {s : State} (h : s.rkOffset.toNat < 18) :
    ∃ t, execAll (List.replicate n .encCtr) s = .next t ∧ t.rkOffset.toNat = (s.rkOffset.toNat + 7 * n) % 18 := by
  obtain ⟨t, ht, hoff⟩ := execAll_induction (cs := List.replicate n .encCtr) (s := s)
    (P := fun m t => t.rkOffset.toNat = (s.rkOffset.toNat + 7 * m) % 18) (by omega) fun m u t i hi hu hx => by
      cases List.eq_of_mem_replicate hi
      rw [exec_encCtr_rkOffset hx, hu]
      omega
  rw [List.length_replicate] at hoff
  exact ⟨t, ht, hoff⟩

/-- Settles O18. 13 is the inverse of 7 modulo 18, so residue `r` is met at call `13 r mod 18` and at no other below 18. -/
theorem offsetCyclesThroughTheResidues : Obligations.OffsetCyclesThroughTheResidues := by
  refine ⟨fun n s => execAll_encCtr_rkOffset n, by decide,
    fun r _ => ⟨13 * r % 18, by omega, by omega, fun m _ _ => by omega⟩, fun s i hi => ?_,
    fun s => ⟨_, exec_resetCtr s, rfl⟩⟩
  rcases hi with rfl | rfl | rfl | rfl
  · exact ⟨_, exec_encPos s, rfl⟩
  · exact ⟨_, exec_genTable1 s, rfl⟩
  · exact ⟨_, exec_genTable2 s, rfl⟩
  · exact ⟨_, exec_genTable3 s, rfl⟩

end Sys2Proof.Proofs
end

section
/-! `ENC_CTR` undoes itself, on one block and on a list of blocks (43_stream_transform.md R146; 45_context_control.md R171,
R172). -/

namespace Sys2Proof.Proofs
open Sys2Proof Sys2Proof.Machine

/-! ### One block -/

/-- `s'` has the counter, offset, round keys and Table1 of `s`: all that the keystream of `ENC_CTR` reads
(43_stream_transform.md R146). -/
structure SameStream (s s' : State) : Prop where
  ctrLo : s'.ctrLo = s.ctrLo
  ctrHi : s'.ctrHi = s.ctrHi
  rkOffset : s'.rkOffset = s.rkOffset
  rk : s'.rk = s.rk
  t1 : s'.t1 = s.t1

theorem SameStream.ctrKeystream_eq {s s' : State} (h : SameStream s s') : s'.ctrKeystream = s.ctrKeystream := by
  simp only [State.ctrKeystream, State.keystream, h.ctrLo, h.ctrHi, h.rkOffset, h.rk, h.t1]

/-- The two calls have one keystream, and its XOR cancels. -/
theorem SameStream.exec_encCtr_output {s s' t : State} (h : SameStream s s') (hx : exec .encCtr s = .next t)
    (h0 : s'.din0 = t.dout0) (h1 : s'.din1 = t.dout1) :
    ∃ t', exec .encCtr s' = .next t' ∧ t'.dout0 = s.din0 ∧ t'.dout1 = s.din1 := by
  cases hx
  refine ⟨_, Machine.exec_encCtr s', ?_⟩
  simp [h0, h1, h.ctrKeystream_eq, xor_cancel_right]

/-- Settles O14: equal counter, offset, round keys and Table1 are an equal stream. -/
theorem encCtrIsSelfInverse : Obligations.EncCtrIsSelfInverse := by
  intro s s' t hx hlo hhi hoff hrk ht1 h0 h1
  exact SameStream.exec_encCtr_output ⟨hlo, hhi, hoff, hrk, ht1⟩ hx h0 h1

/-- The counter and the offset move alike, so two calls that keep Table1 keep the streams together. -/
theorem SameStream.exec_encCtr {s s' t t' : State} (h : SameStream s s') (hx : exec .encCtr s = .next t)
    (hx' : exec .encCtr s' = .next t') (ht : t.t1 = s.t1) (ht' : t'.t1 = s'.t1) : SameStream t t' where
  ctrLo := by cases hx; cases hx'; simp [State.ctr, h.ctrLo, h.ctrHi]
  ctrHi := by cases hx; cases hx'; simp [State.ctr, h.ctrLo, h.ctrHi]
  rkOffset := by cases hx; cases hx'; simp [h.rkOffset]
  rk := by cases hx; cases hx'; exact h.rk
  t1 := by rw [ht, ht', h.t1]

/-! ### A list of blocks -/

/-- `DIN` written with a block. -/
def withBlock (s : State) (p : Word × Word) : State := { s with din0 := p.1, din1 := p.2 }

theorem SameStream.withBlock {s s' : State} (h : SameStream s s') (p q : Word × Word) :
    SameStream (withBlock s p) (withBlock s' q) :=
  ⟨h.ctrLo, h.ctrHi, h.rkOffset, h.rk, h.t1⟩

/-- Below the minor limit a block leaves the round keys and Table1, and is counted. -/
theorem exec_encCtr_withBlock {s t : State} {p : Word × Word} (hx : exec .encCtr (withBlock s p) = .next t)
    (hm : (s.evoMinor + 1).toNat < 2000) : t.rk = s.rk ∧ t.t1 = s.t1 ∧ t.evoMinor = s.evoMinor + 1 :=
  ⟨by cases hx; rfl, exec_cipher_below_limit (s := withBlock s p) rfl hx hm⟩

theorem encryptBlocks_cons {p : Word × Word} {ps cs : List (Word × Word)} {s t u : State}
    (hx : exec .encCtr (withBlock s p) = .next t) (hps : encryptBlocks ps t = some (u, cs)) :
    encryptBlocks (p :: ps) s = some (u, (t.dout0, t.dout1) :: cs) := by
  rw [withBlock] at hx
  rw [encryptBlocks, hx]
  simp only [hps]

/-- While the minor counter stays below its limit, Table1 stays, so the ciphertext encrypted again from an equal stream and count
gives the blocks back: by induction over the blocks, the streams kept together from each block to the next. -/
theorem encryptBlocks_encryptBlocks {blocks : List (Word × Word)} {s : State}
    (hn : s.evoMinor.toNat + blocks.length < 2000) :
    ∃ t cipher, encryptBlocks blocks s = some (t, cipher) ∧ t.rk = s.rk ∧ t.t1 = s.t1 ∧
      ∀ s', SameStream s s' → s'.evoMinor = s.evoMinor → ∃ v, encryptBlocks cipher s' = some (v, blocks) := by
  induction blocks generalizing s with
  | nil => exact ⟨s, [], rfl, rfl, rfl, fun s' _ _ => ⟨s', rfl⟩⟩
  | cons p ps ih =>
    rw [List.length_cons] at hn
    have hcount : (s.evoMinor + 1).toNat = s.evoMinor.toNat + 1 := toNat_add_one (by omega)
    obtain ⟨t, hx⟩ := exec_completes .encCtr (withBlock s p)
    obtain ⟨hrk, ht1, hminor⟩ := exec_encCtr_withBlock hx (by omega)
    obtain ⟨u, cs, hps, hurk, hut1, back⟩ := ih (s := t) (by rw [hminor]; omega)
    refine ⟨u, (t.dout0, t.dout1) :: cs, encryptBlocks_cons hx hps, hurk.trans hrk, hut1.trans ht1, fun s' hs hm => ?_⟩
    have hblock := hs.withBlock p (t.dout0, t.dout1)
    obtain ⟨t', hx', h0, h1⟩ := hblock.exec_encCtr_output hx rfl rfl
    obtain ⟨-, ht1', hminor'⟩ := exec_encCtr_withBlock hx' (by rw [hm]; omega)
    obtain ⟨v, hv⟩ := back t' (hblock.exec_encCtr hx hx' ht1 ht1') (by rw [hminor', hminor, hm])
    exact ⟨v, by rw [encryptBlocks_cons hx' hv, h0, h1]; rfl⟩

/-- Settles O20: `RESET_CTR` returns the counters and the offset to the start, and at most 1999 blocks left the round keys and
Table1 as they were there. -/
theorem roundTripWithinTheBound : Obligations.RoundTripWithinTheBound := by
  intro blocks s hn hlo hhi hminor _ hoff
  obtain ⟨t, cipher, ht, hrk, ht1, back⟩ := encryptBlocks_encryptBlocks (blocks := blocks) (s := s)
    (by rw [hminor, toNat_zero]; omega)
  obtain ⟨v, hv⟩ := back t.rewind.finish ⟨hlo.symm, hhi.symm, hoff.symm, hrk, ht1⟩ hminor.symm
  exact ⟨t, _, v, cipher, ht, exec_resetCtr t, hv⟩

end Sys2Proof.Proofs
end

section
/-! The position's nonce, and what `ENC_POS` takes from its position (44_packet_transform.md R161, R162, R164). -/

namespace Sys2Proof.Proofs
open Sys2Proof Sys2Proof.Machine

/-! ### The nonce -/

/-- The word's product is reduced before the sum, which the one reduction of the sum absorbs. -/
theorem posNonce_toNat (pi ps bo : DWord) :
    (posNonce pi ps bo).toNat = (pi.toNat * ps.toNat + 8 * bo.toNat) % 2 ^ 64 := by
  have eight : (8 : DWord).toNat = 8 := rfl
  rw [posNonce, BitVec.toNat_add, BitVec.toNat_mul, BitVec.toNat_mul, eight, ← Nat.add_mod]

theorem posNonce_zero_packetSize (pi bo : DWord) : posNonce pi 0 bo = 8 * bo := by
  simp only [posNonce, BitVec.ofNat_eq_ofNat, BitVec.mul_zero, BitVec.zero_add]

/-- Multiplying by 8 shifts the top three bits out of the word. -/
theorem eight_mul_and_low61 (bo : DWord) : 8 * (bo &&& 0x1FFFFFFFFFFFFFFF) = 8 * bo := by
  have low61 : (bo &&& 0x1FFFFFFFFFFFFFFF).toNat = bo.toNat % 2 ^ 61 := Nat.and_two_pow_sub_one_eq_mod bo.toNat 61
  apply BitVec.eq_of_toNat_eq
  rw [BitVec.toNat_mul, BitVec.toNat_mul, low61]
  change 8 * (bo.toNat % 2 ^ 61) % 2 ^ 64 = 8 * bo.toNat % 2 ^ 64
  omega

/-- A packet index of -1 modulo 2^64, a packet size of 2 and a byte offset of 1: -2 + 8. -/
theorem posNonce_allOnes_two_one : posNonce 0xFFFFFFFFFFFFFFFF 2 1 = 6 := by decide

/-- Settles O16: the integer sum reduced once, and the corner cases of its two terms. -/
theorem posNonceIsTheModularSum : Obligations.PosNonceIsTheModularSum := by
  refine ⟨fun pi ps bo => ⟨posNonce_toNat pi ps bo, ?reducedEach⟩, posNonce_zero_packetSize, fun pi ps bo => ?topBits,
    posNonce_allOnes_two_one⟩
  case reducedEach => rw [posNonce_toNat, Nat.add_mod]
  case topBits => rw [posNonce, posNonce, eight_mul_and_low61]

/-! ### Two positions with one nonce -/

/-- `s'` has the position nonce, round keys and Table1 of `s`: all that the keystream of `ENC_POS` reads
(44_packet_transform.md R164). -/
structure SamePosition (s s' : State) : Prop where
  nonce : s'.positionNonce = s.positionNonce
  rk : s'.rk = s.rk
  t1 : s'.t1 = s.t1

theorem SamePosition.posKeystream_eq {s s' : State} (h : SamePosition s s') : s'.posKeystream = s.posKeystream := by
  simp only [State.posKeystream, State.keystream, h.nonce, h.rk, h.t1]

/-- `DOUT` is `DIN` with the position's keystream XORed in. -/
theorem exec_encPos_dout (s : State) :
    ∃ t, exec .encPos s = .next t ∧ t.dout0 = s.din0 ^^^ s.posKeystream.1 ∧ t.dout1 = s.din1 ^^^ s.posKeystream.2 :=
  ⟨_, exec_encPos s, by simp, by simp⟩

/-- Settles O15: both calls XOR in the one keystream, which gives equal outputs for equal inputs and cancels on the output. -/
theorem encPosDependsOnTheNonceAlone : Obligations.EncPosDependsOnTheNonceAlone := by
  refine ⟨fun s s' hn hrk ht1 => ?_, by decide⟩
  have stream : s'.posKeystream = s.posKeystream := SamePosition.posKeystream_eq ⟨hn, hrk, ht1⟩
  obtain ⟨t, hx, ht0, ht1⟩ := exec_encPos_dout s
  obtain ⟨t', hx', ht0', ht1'⟩ := exec_encPos_dout s'
  rw [stream] at ht0' ht1'
  refine ⟨t, t', hx, hx', fun h0 h1 => ⟨?same0, ?same1⟩, fun h0 h1 => ⟨?back0, ?back1⟩⟩
  case same0 => rw [ht0', ht0, h0]
  case same1 => rw [ht1', ht1, h1]
  case back0 => rw [ht0', h0, ht0, xor_cancel_right]
  case back1 => rw [ht1', h1, ht1, xor_cancel_right]

end Sys2Proof.Proofs
end

section
/-! The context commands and the context window (45_context_control.md R170, R171, R175 to R181). -/

namespace Sys2Proof.Proofs
open Sys2Proof Sys2Proof.Machine

/-! ### The commands that do not encrypt -/

/-- Settles O6: NOP is `State.finish` alone. -/
theorem nopClearsBusyAlone : Obligations.NopClearsBusyAlone := exec_nop

/-- Settles O11: RESET_CTR is `State.rewind`, then `State.finish`. -/
theorem resetCtrRewindsThePosition : Obligations.ResetCtrRewindsThePosition := exec_resetCtr

/-! ### The index of a slot -/

/-- The window index that names a slot (45_context_control.md R175); a reserved slot, which many indices name, is given one of
them. -/
def slotIndex : CtxSlot → Byte
  | .ctrLo => 0x00
  | .ctrHi => 0x01
  | .evoMinor => 0x02
  | .evoMajor => 0x03
  | .rkOffset => 0x04
  | .roundKey k => BitVec.ofNat 8 (0x10 + k.val)
  | .tableWord .t1 w => BitVec.ofNat 8 (0x40 + w.val)
  | .tableWord .t2 w => BitVec.ofNat 8 (0x80 + w.val)
  | .tableWord .t3 w => BitVec.ofNat 8 (0xC0 + w.val)
  | .reserved => 0x05

theorem ctxSlot_slotIndex (a : CtxSlot) : ctxSlot (slotIndex a) = a := by
  cases a with
  | ctrLo | ctrHi | evoMinor | evoMajor | rkOffset | reserved => rfl
  | roundKey k => revert k; decide
  | tableWord t w => cases t <;> revert w <;> decide

theorem slotIndex_ctxSlot {i : Byte} (h : ctxSlot i ≠ .reserved) : slotIndex (ctxSlot i) = i := by
  rcases ctxSlot_cases i with ⟨hi, hs⟩ | ⟨hi, hs⟩ | ⟨hi, hs⟩ | ⟨hi, hs⟩ | ⟨hi, hs⟩ | ⟨k, hi, hs⟩ | ⟨w, hi, hs⟩ | ⟨w, hi, hs⟩ |
    ⟨w, hi, hs⟩ | ⟨-, hs⟩
  case inr.inr.inr.inr.inr.inr.inr.inr.inr => exact absurd hs h
  all_goals rw [hs]; simp only [slotIndex]; bv_omega

/-- Two indices that name the same slot are equal, a reserved slot set aside. -/
theorem ctxSlot_injective {i j : Byte} (hi : ctxSlot i ≠ .reserved) (h : ctxSlot i = ctxSlot j) : i = j := by
  rw [← slotIndex_ctxSlot hi, h, slotIndex_ctxSlot (h ▸ hi)]

theorem ctxSlot_eq_reserved_iff (i : Byte) :
    ctxSlot i = .reserved ↔ (0x05 ≤ i.toNat ∧ i.toNat ≤ 0x0F) ∨ (0x2A ≤ i.toNat ∧ i.toNat ≤ 0x3F) := by
  rcases ctxSlot_cases i with ⟨hi, hs⟩ | ⟨hi, hs⟩ | ⟨hi, hs⟩ | ⟨hi, hs⟩ | ⟨hi, hs⟩ | ⟨k, hi, hs⟩ | ⟨w, hi, hs⟩ | ⟨w, hi, hs⟩ |
    ⟨w, hi, hs⟩ | ⟨hi, hs⟩
  case inr.inr.inr.inr.inr.inr.inr.inr.inr => exact iff_of_true hs hi
  -- every other slot's indices lie outside the two ranges
  all_goals exact iff_of_false (hs ▸ nofun) (by bv_omega)

/-- The 223 indices of 45_context_control.md R181 are those that name no reserved slot. -/
theorem mem_contextIndices {i : Byte} : i ∈ contextIndices ↔ ctxSlot i ≠ .reserved := by
  have hi := i.isLt
  have listed : i ∈ contextIndices ↔ ∃ n, (n < 0x05 ∨ (∃ k < 26, 0x10 + k = n) ∨ ∃ w < 192, 0x40 + w = n) ∧
      BitVec.ofNat 8 n = i := by
    simp only [contextIndices, List.mem_map, List.mem_append, List.mem_range, or_assoc]
  rw [listed, ne_eq, ctxSlot_eq_reserved_iff]
  constructor
  · rintro ⟨n, hn, rfl⟩
    rw [BitVec.toNat_ofNat]
    obtain hn | ⟨k, hk, rfl⟩ | ⟨w, hw, rfl⟩ := hn <;> omega
  · intro hr
    refine ⟨i.toNat, ?_, by simp⟩
    by_cases h : i.toNat < 0x40
    · by_cases h5 : i.toNat < 0x05
      · exact .inl h5
      · exact .inr (.inl ⟨i.toNat - 0x10, by omega, by omega⟩)
    · exact .inr (.inr ⟨i.toNat - 0x40, by omega, by omega⟩)

theorem slotIndex_mem_contextIndices {a : CtxSlot} (h : a ≠ .reserved) : slotIndex a ∈ contextIndices :=
  mem_contextIndices.2 (by rwa [ctxSlot_slotIndex])

/-! ### The words of a table -/

/-- Byte `k` of word `w` is entry `4w + k` (45_context_control.md R175). -/
theorem byteOf_tableWordAt (T : Table) (w : Fin 64) (k : Fin 4) :
    byteOf (tableWordAt T w) k.val = lookup T (BitVec.ofNat 8 (4 * w.val + k.val)) := by
  rw [← getElem_eq_lookup T (4 * w.val + k.val) (by omega)]
  unfold tableWordAt
  match k with
  | 0 => exact byteOf_wordOf_0 ..
  | 1 => exact byteOf_wordOf_1 ..
  | 2 => exact byteOf_wordOf_2 ..
  | 3 => exact byteOf_wordOf_3 ..

/-- Tables with the same 64 words are equal. -/
theorem table_eq_of_tableWordAt_eq {A B : Table} (h : ∀ w, tableWordAt A w = tableWordAt B w) : A = B := by
  refine table_ext fun x => ?_
  have hx := x.isLt
  have whole : BitVec.ofNat 8 (4 * (x.toNat / 4) + x.toNat % 4) = x := by bv_omega
  have entry (T : Table) := byteOf_tableWordAt T ⟨x.toNat / 4, by omega⟩ ⟨x.toNat % 4, by omega⟩
  simp only [whole] at entry
  rw [← entry A, ← entry B, h]

theorem tableWordAt_putTableWord (T : Table) (w : Fin 64) (v : Word) : tableWordAt (putTableWord T w v) w = v := by
  simp [tableWordAt, putTableWord]

/-- A word written into a table leaves the entries of the other words. -/
theorem getElem_putTableWord_of_ne (T : Table) {w : Fin 64} {x : Nat} (hx : x < 256) (h : x / 4 ≠ w.val) (v : Word) :
    (putTableWord T w v)[x] = T[x] := by
  simp only [putTableWord, Vector.getElem_set, show 4 * w.val ≠ x by omega, show 4 * w.val + 1 ≠ x by omega,
    show 4 * w.val + 2 ≠ x by omega, show 4 * w.val + 3 ≠ x by omega, if_false]

theorem tableWordAt_putTableWord_of_ne (T : Table) {w w' : Fin 64} (h : w ≠ w') (v : Word) :
    tableWordAt (putTableWord T w v) w' = tableWordAt T w' := by
  have hw : w'.val ≠ w.val := fun he => h (Fin.ext he.symm)
  unfold tableWordAt
  congr 1 <;> exact getElem_putTableWord_of_ne T _ (by omega) v

/-! ### Reading the window -/

theorem ctxRead_roundKey (s : State) (k : Fin 26) : s.ctxRead (slotIndex (.roundKey k)) = s.rk[k] := by
  rw [State.ctxRead, ctxSlot_slotIndex]

theorem ctxRead_tableWord (s : State) (t : TableId) (w : Fin 64) :
    s.ctxRead (slotIndex (.tableWord t w)) = tableWordAt (s.table t) w := by
  rw [State.ctxRead, ctxSlot_slotIndex]

theorem byteOf_ctxRead_tableWord (s : State) (t : TableId) (w : Fin 64) (k : Fin 4) :
    byteOf (s.ctxRead (slotIndex (.tableWord t w))) k.val = lookup (s.table t) (BitVec.ofNat 8 (4 * w.val + k.val)) := by
  rw [ctxRead_tableWord, byteOf_tableWordAt]

theorem ctxRead_reserved (s : State) {i : Byte} (h : ctxSlot i = .reserved) : s.ctxRead i = 0 := by
  rw [State.ctxRead, h]

/-- Settles O42, one index range of R175 after the other. -/
theorem windowReadsTheContext : Obligations.WindowReadsTheContext := fun s =>
  ⟨rfl, rfl, rfl, rfl, rfl, ctxRead_roundKey s,
    fun w k => ⟨byteOf_ctxRead_tableWord s .t1 w k, byteOf_ctxRead_tableWord s .t2 w k, byteOf_ctxRead_tableWord s .t3 w k⟩,
    fun _ h => ctxRead_reserved s ((ctxSlot_eq_reserved_iff _).2 h)⟩

/-! ### Reading after a write -/

/-- A word of one byte is its low byte, so a stored offset loses nothing. -/
theorem setWidth_byteOf_of_lt {v : Word} (h : v.toNat < 18) : BitVec.setWidth 32 (byteOf v 0) = v := by
  apply BitVec.eq_of_toNat_eq
  rw [byteOf, BitVec.toNat_setWidth, BitVec.extractLsb'_toNat, Nat.mul_zero, Nat.shiftRight_zero]
  omega

theorem toNat_setWidth_byte (b : Byte) : (BitVec.setWidth 32 b).toNat = b.toNat :=
  BitVec.toNat_setWidth_of_le (by decide)

/-- A write the checks pass names a slot that is not reserved. -/
theorem ctxSlot_ne_reserved_of_stored {i : Byte} {v : Word} (h : ctxWriteError i v = none) : ctxSlot i ≠ .reserved := by
  intro hs
  simp [ctxWriteError, hs] at h

theorem ctxRead_ctxStore (s : State) {i : Byte} {v : Word} (h : ctxWriteError i v = none) :
    (s.ctxStore i v).ctxRead i = v := by
  have hr := ctxSlot_ne_reserved_of_stored h
  unfold ctxWriteError at h
  unfold State.ctxRead State.ctxStore
  cases hs : ctxSlot i with
  | ctrLo | ctrHi | evoMinor | evoMajor => rfl
  | rkOffset => exact setWidth_byteOf_of_lt (by simpa [hs] using h)
  | roundKey k => exact Vector.getElem_set_self _
  | tableWord t w =>
    show tableWordAt ((s.setTable t _).table t) w = v
    rw [setTable_table, if_pos rfl, tableWordAt_putTableWord]
  | reserved => exact absurd hs hr

/-- Each slot is a piece of state of its own; two round keys or two words of tables are told apart by their entries. -/
theorem ctxRead_ctxStore_of_slot_ne (s : State) {i j : Byte} (h : ctxSlot i ≠ ctxSlot j) (v : Word) :
    (s.ctxStore i v).ctxRead j = s.ctxRead j := by
  unfold State.ctxRead State.ctxStore
  generalize ctxSlot i = a at h
  generalize ctxSlot j = b at h
  cases a with
  | ctrLo => cases b with | ctrLo => exact absurd rfl h | _ => rfl
  | ctrHi => cases b with | ctrHi => exact absurd rfl h | _ => rfl
  | evoMinor => cases b with | evoMinor => exact absurd rfl h | _ => rfl
  | evoMajor => cases b with | evoMajor => exact absurd rfl h | _ => rfl
  | rkOffset => cases b with | rkOffset => exact absurd rfl h | _ => rfl
  | roundKey k =>
    cases b with
    | roundKey k' => exact Vector.getElem_set_ne k.isLt k'.isLt fun he => h (congrArg _ (Fin.ext he))
    | tableWord t w => cases t <;> rfl
    | _ => rfl
  | tableWord t w =>
    cases b with
    | tableWord t' w' =>
      show tableWordAt ((s.setTable t _).table t') w' = tableWordAt (s.table t') w'
      rw [setTable_table]
      split
      next ht =>
        subst ht
        exact tableWordAt_putTableWord_of_ne _ (fun hw => h (congrArg _ hw)) v
      next => rfl
    | _ => rfl
  | reserved => rfl

theorem ctxRead_raise (s : State) (e : ErrorKind) (j : Byte) : (s.raise e).ctxRead j = s.ctxRead j := by
  unfold State.ctxRead
  split <;> rfl

theorem ctxWrite_of_stored (s : State) {i : Byte} {v : Word} (h : ctxWriteError i v = none) :
    s.ctxWrite i v = s.ctxStore i v := by
  rw [State.ctxWrite, h]

theorem ctxRead_ctxWrite (s : State) {i : Byte} {v : Word} (h : ctxWriteError i v = none) :
    (s.ctxWrite i v).ctxRead i = v := by
  rw [ctxWrite_of_stored s h, ctxRead_ctxStore s h]

theorem ctxRead_ctxWrite_of_ne (s : State) {i j : Byte} (h : i ≠ j) (v : Word) :
    (s.ctxWrite i v).ctxRead j = s.ctxRead j := by
  rcases ctxWrite_cases s i v with ⟨e, -, hw⟩ | ⟨hn, hw⟩ <;> rw [hw]
  · exact ctxRead_raise s e j
  · exact ctxRead_ctxStore_of_slot_ne s (fun hs => h (ctxSlot_injective (ctxSlot_ne_reserved_of_stored hn) hs)) v

theorem ctxRead_ctxWrite_of_refused (s : State) {i : Byte} {v : Word} (h : (ctxWriteError i v).isSome = true) (j : Byte) :
    (s.ctxWrite i v).ctxRead j = s.ctxRead j := by
  obtain ⟨e, he⟩ := Option.isSome_iff_exists.1 h
  simp only [State.ctxWrite, he, ctxRead_raise]

/-- Settles O44: a store changes one slot, and two indices share none but a reserved one. -/
theorem windowWriteIsReadBack : Obligations.WindowWriteIsReadBack := fun s _ j v =>
  ⟨ctxRead_ctxWrite s, fun h => h.elim (ctxRead_ctxWrite_of_ne s · v) (ctxRead_ctxWrite_of_refused s · j)⟩

/-- Settles O45: a refused write is an error record alone, and `ctxStore_frame` bounds a stored one. -/
theorem windowWriteFrame : Obligations.WindowWriteFrame := by
  refine fun s i v => ⟨fun hlo hhi => ctxWrite_keysValid ⟨hlo, hhi⟩ v,
    fun hlo hhi => ctxWrite_tableValid (t := .t1) ⟨hlo, hhi⟩ v, fun hlo hhi => ctxWrite_tableValid (t := .t2) ⟨hlo, hhi⟩ v,
    fun hlo => ctxWrite_tableValid (t := .t3) hlo v, ?frame⟩
  case frame =>
    rcases ctxWrite_cases s i v with ⟨e, -, hw⟩ | ⟨-, hw⟩ <;> rw [hw]
    · exact ⟨_, _, _, _, _, _, _, _, _, _, _, _, _, _, _, rfl⟩
    · rw [ctxStore_frame]
      exact ⟨_, _, _, _, _, _, _, _, _, _, _, _, _, _, _, rfl⟩

/-! ### Importing a context -/

/-- Every word read of a state in the invariant's ranges passes the write checks (45_context_control.md R181). -/
theorem ctxWriteError_ctxRead {t : State} (ho : t.rkOffset.toNat < 18) (hm : t.evoMinor.toNat < 2000) {i : Byte}
    (hi : i ∈ contextIndices) : ctxWriteError i (t.ctxRead i) = none := by
  have hr := mem_contextIndices.1 hi
  unfold ctxWriteError State.ctxRead
  cases hs : ctxSlot i with
  | ctrLo | ctrHi | evoMajor | roundKey | tableWord => rfl
  | evoMinor => exact if_neg (Nat.not_le.2 hm)
  | rkOffset => exact if_neg (by rw [toNat_setWidth_byte]; exact Nat.not_le.2 ho)
  | reserved => exact absurd hs hr

/-- What `u` owes to the words of `t` written into the window of `s` at the indices listed. -/
structure Imported (s t : State) (indices : List Byte) (u : State) : Prop where
  reads : ∀ i ∈ indices, u.ctxRead i = t.ctxRead i
  keysValid : ∀ i ∈ indices, inKeyRegion i → u.keysValid = true
  tableValid : ∀ i ∈ indices, ∀ x, inTableRegion x i → tableValid u x = true
  frame : u = withWindowOf s u

theorem Imported.start (s t : State) : Imported s t [] s where
  reads _ h := nomatch h
  keysValid _ h := nomatch h
  tableValid _ h := nomatch h
  frame := rfl

theorem ctxStore_keeps_keysValid {s : State} (h : s.keysValid = true) (i : Byte) (v : Word) :
    (s.ctxStore i v).keysValid = true := by
  rcases ctxStore_keys s i v with ⟨-, hv⟩ | ⟨-, hv⟩
  · exact hv
  · exact hv.trans h

theorem ctxStore_keeps_tableValid {s : State} {x : TableId} (h : tableValid s x = true) (i : Byte) (v : Word) :
    tableValid (s.ctxStore i v) x = true := by
  rcases ctxStore_table s i v x with ⟨-, hv⟩ | ⟨hv, -⟩
  · exact hv
  · exact hv.trans h

theorem Imported.ctxWrite {s t u : State} {indices : List Byte} {i : Byte} (h : Imported s t indices u)
    (hi : ctxWriteError i (t.ctxRead i) = none) : Imported s t (indices ++ [i]) (u.ctxWrite i (t.ctxRead i)) where
  reads j hj := by
    by_cases hij : i = j
    · subst hij
      exact ctxRead_ctxWrite u hi
    · rw [ctxRead_ctxWrite_of_ne u hij]
      exact h.reads j (by simpa [Ne.symm hij] using hj)
  keysValid j hj hr := by
    rcases List.mem_append.1 hj with hj | hj
    · rw [ctxWrite_of_stored u hi]
      exact ctxStore_keeps_keysValid (h.keysValid j hj hr) ..
    · exact ctxWrite_keysValid (List.mem_singleton.1 hj ▸ hr) _
  tableValid j hj x hr := by
    rcases List.mem_append.1 hj with hj | hj
    · rw [ctxWrite_of_stored u hi]
      exact ctxStore_keeps_tableValid (h.tableValid j hj x hr) ..
    · exact ctxWrite_tableValid (List.mem_singleton.1 hj ▸ hr) _
  frame := by
    rw [ctxWrite_of_stored u hi, ctxStore_frame, h.frame]
    rfl

theorem importWords_imported {s t : State} {indices : List Byte}
    (h : ∀ i ∈ indices, ctxWriteError i (t.ctxRead i) = none) : Imported s t indices (s.importWords t indices) := by
  induction indices using List.reverseRecOn with
  | nil => exact .start s t
  | append_singleton indices i ih =>
    rw [State.importWords, List.foldl_append]
    exact (ih fun j hj => h j (by simp [hj])).ctxWrite (h i (by simp))

/-- All 223 words of `t` make `s` the state with the context of `t`: a round key, a table and the offset are fixed by their
words. -/
theorem Imported.eq_withContextOf {s t u : State} {indices : List Byte} (h : Imported s t indices u)
    (all : ∀ i ∈ contextIndices, i ∈ indices) : u = s.withContextOf t := by
  have word {a : CtxSlot} (ha : a ≠ .reserved) : u.ctxRead (slotIndex a) = t.ctxRead (slotIndex a) :=
    h.reads _ (all _ (slotIndex_mem_contextIndices ha))
  have ctrLo : u.ctrLo = t.ctrLo := word (a := .ctrLo) nofun
  have ctrHi : u.ctrHi = t.ctrHi := word (a := .ctrHi) nofun
  have evoMinor : u.evoMinor = t.evoMinor := word (a := .evoMinor) nofun
  have evoMajor : u.evoMajor = t.evoMajor := word (a := .evoMajor) nofun
  have rkOffset : u.rkOffset = t.rkOffset := BitVec.eq_of_toNat_eq <| by
    have widened : BitVec.setWidth 32 u.rkOffset = BitVec.setWidth 32 t.rkOffset := word (a := .rkOffset) nofun
    rw [← toNat_setWidth_byte, widened, toNat_setWidth_byte]
  have rk : u.rk = t.rk := Vector.ext fun k hk => by
    have := word (a := .roundKey ⟨k, hk⟩) nofun
    rwa [ctxRead_roundKey, ctxRead_roundKey] at this
  have table (x : TableId) : u.table x = t.table x := table_eq_of_tableWordAt_eq fun w => by
    rw [← ctxRead_tableWord, ← ctxRead_tableWord, word (a := .tableWord x w) nofun]
  have keys : u.keysValid = true := h.keysValid 0x10 (all _ (by decide)) ⟨by decide, by decide⟩
  have valid1 : u.t1Valid = true := h.tableValid 0x40 (all _ (by decide)) .t1 ⟨by decide, by decide⟩
  have valid2 : u.t2Valid = true := h.tableValid 0x80 (all _ (by decide)) .t2 ⟨by decide, by decide⟩
  have valid3 : u.t3Valid = true := h.tableValid 0xC0 (all _ (by decide)) .t3 (Nat.le_refl 0xC0)
  have t1 : u.t1 = t.t1 := table .t1
  have t2 : u.t2 = t.t2 := table .t2
  have t3 : u.t3 = t.t3 := table .t3
  rw [h.frame, withWindowOf, ctrLo, ctrHi, evoMinor, evoMajor, rkOffset, rk, t1, t2, t3, keys, valid1, valid2, valid3]
  rfl

/-- Settles O46, by induction on the order for what the words already written have made of the target. -/
theorem importCopiesTheContext : Obligations.ImportCopiesTheContext := fun _ _ _ ho hm hp =>
  (importWords_imported fun _ hi => ctxWriteError_ctxRead ho hm (hp.mem_iff.1 hi)).eq_withContextOf
    fun _ hi => hp.mem_iff.2 hi

end Sys2Proof.Proofs
end

section
/-! The error record and the answers to a word at `CMD` (60_exceptions.md R201 to R203, R205, R206, R208). -/

namespace Sys2Proof.Proofs
open Sys2Proof Sys2Proof.Machine

/-! ### The error record -/

theorem raise_of_no_error {s : State} (h : s.err = false) (e : ErrorKind) :
    s.raise e = { s with err := true, errCode := e.code } := by
  simp [State.raise, h]

theorem raise_of_error {s : State} (h : s.err = true) (e : ErrorKind) : s.raise e = s := by
  rw [State.raise, if_pos h, ← h]

/-- Settles O33, by whether an error is recorded already. -/
theorem raisedErrorKeepsTheFirstCode : Obligations.RaisedErrorKeepsTheFirstCode :=
  ⟨fun _ e => ⟨(raise_of_no_error · e), (raise_of_error · e)⟩, rfl, rfl, rfl, rfl, rfl⟩

/-! ### A word at `CMD` -/

theorem writeWord_cmd {s : State} (hb : s.busy = false) (w : Word) : s.writeWord 0x08 w = s.accept w :=
  writeWord_offset (r := .cmd) (fun _ => hb) w

theorem accept_of_illegal (s : State) {w : Word} {e : IllegalWord} (h : decode w = .error e) :
    s.accept w = s.raise .illegalCmd := by
  simp only [State.accept, h]

theorem accept_encode_of_not_ready {s : State} {i : Instr} (hc : isCipher i = true) (hv : s.allValid = false) :
    s.accept (encode i) = s.raise .notReady := by
  simp [State.accept, decode_encode, hc, hv]

theorem accept_encode_of_ready {s : State} {i : Instr} (h : isCipher i = true → s.allValid = true) :
    s.accept (encode i) = s.start (encode i) := by
  have hpass : (isCipher i && !s.allValid) = false := by
    cases hc : isCipher i
    · rfl
    · simp [h hc]
  simp [State.accept, decode_encode, hpass]

/-- Settles O35: acceptance decodes the word first, and the decoder refuses each of the five examples. -/
theorem illegalWordIsRefused : Obligations.IllegalWordIsRefused := by
  refine ⟨fun s w hb ⟨e, he⟩ => ?_, fun w hw => ?_⟩
  · rw [writeWord_cmd hb, accept_of_illegal s he]
  · simp only [List.mem_cons, List.not_mem_nil, or_false] at hw
    rcases hw with rfl | rfl | rfl | rfl | rfl <;> exact ⟨_, rfl⟩

/-- The two words of R208 are those of the cipher commands. -/
theorem exists_cipher_of_word {w : Word} (h : w = 0x00000003 ∨ w = 0x00000004) :
    ∃ i, isCipher i = true ∧ w = encode i := by
  rcases h with rfl | rfl
  · exact ⟨.encCtr, rfl, rfl⟩
  · exact ⟨.encPos, rfl, rfl⟩

theorem allValid_eq_false_iff (s : State) : s.allValid = false ↔
    s.keysValid = false ∨ s.t1Valid = false ∨ s.t2Valid = false ∨ s.t3Valid = false := by
  simp only [State.allValid, Bool.and_eq_false_iff, or_assoc]

theorem writeWord_cmd_of_not_ready {s : State} (hb : s.busy = false) (hv : s.allValid = false) {w : Word}
    (hw : w = 0x00000003 ∨ w = 0x00000004) : s.writeWord 0x08 w = s.raise .notReady := by
  obtain ⟨i, hc, rfl⟩ := exists_cipher_of_word hw
  rw [writeWord_cmd hb, accept_encode_of_not_ready hc hv]

/-- Settles O36; hardware reset leaves no command in flight and no valid bit set. -/
theorem cipherCommandsNeedEveryValidBit : Obligations.CipherCommandsNeedEveryValidBit :=
  ⟨fun s _ hb hw hv => writeWord_cmd_of_not_ready hb ((allValid_eq_false_iff s).2 hv) hw,
    fun s n _ hw => writeWord_cmd_of_not_ready (s := s.hardwareReset n) rfl rfl hw⟩

theorem writeWord_cmd_of_ready {s : State} (hb : s.busy = false) {i : Instr}
    (h : isCipher i = true → s.allValid = true) : s.writeWord 0x08 (encode i) = s.start (encode i) := by
  rw [writeWord_cmd hb, accept_encode_of_ready h]

/-- Settles O37, with the four valid bits read as `allValid`. -/
theorem acceptanceStartsTheCommand : Obligations.AcceptanceStartsTheCommand :=
  fun s _ hb h => writeWord_cmd_of_ready hb fun hc => (allValid_iff s).2 (h hc)

end Sys2Proof.Proofs
end

section
/-! Writes and reads while a command is in flight (60_exceptions.md R204; 20_memory.md R52, R57, R58). -/

namespace Sys2Proof.Proofs
open Sys2Proof Sys2Proof.Machine

/-- The gated registers, in the order of their offsets (20_memory.md R52). -/
def gatedRegs : List Reg :=
  [.cmd, .key0, .key1, .key2, .seed0, .seed1, .seed2, .din0, .din1, .pidxLo, .pidxHi, .psizeLo, .psizeHi, .boffLo, .boffHi,
    .ctxIndex, .ctxData]

theorem mem_gatedRegs_iff (r : Reg) : r ∈ gatedRegs ↔ r.gated = true := by
  cases r <;> decide

/-- The 17 gated offsets as 60_exceptions.md R204 counts them. -/
def gatedOffsets : List Nat :=
  [0x08, 0x10, 0x14, 0x18, 0x20, 0x24, 0x28, 0x30, 0x34, 0x40, 0x44, 0x48, 0x4C, 0x50, 0x54, 0x60, 0x64]

theorem mem_gatedOffsets_iff (off : Nat) : off ∈ gatedOffsets ↔ ∃ r : Reg, r.gated = true ∧ r.offset = off := by
  have hmap : gatedOffsets = gatedRegs.map Reg.offset := rfl
  simp only [hmap, List.mem_map, mem_gatedRegs_iff]

theorem writeWord_gated_busy {s : State} {off : Nat} (hoff : off ∈ gatedOffsets) (hb : s.busy = true) (v : Word) :
    s.writeWord off v = s.raise .busy := by
  obtain ⟨r, hr, rfl⟩ := (mem_gatedOffsets_iff off).1 hoff
  simp [State.writeWord, hr, hb]

/-- The registers that are not gated ignore a write, but for the clearing one at `STATUS`. -/
theorem storeReg_of_not_gated (s : State) {r : Reg} (hr : r.gated = false) (v : Word) :
    s.storeReg r v = s ∨ (r = .status ∧ v.getLsbD 1 = true ∧ s.storeReg r v = s.clearError) := by
  cases r with
  | id | dout0 | dout1 => exact .inl rfl
  | status =>
    cases hv : v.getLsbD 1
    · exact .inl (by simp only [State.storeReg, hv, Bool.false_eq_true, if_false])
    · exact .inr ⟨rfl, rfl, by simp only [State.storeReg, hv, if_true]⟩
  | _ => cases hr

theorem writeWord_not_gated (s : State) {off : Nat} (hoff : off ∉ gatedOffsets) (v : Word) :
    s.writeWord off v = s ∨ (off = 0x04 ∧ v.getLsbD 1 = true ∧ s.writeWord off v = s.clearError) := by
  have ungated : ∀ {r : Reg}, regAt off = some r → r.gated = false := fun hr =>
    Bool.eq_false_iff.2 fun hg => hoff ((mem_gatedOffsets_iff off).2 ⟨_, hg, offset_of_regAt hr⟩)
  rcases writeWord_cases s off v with ⟨-, hw⟩ | ⟨r, hr, hg, -, -⟩ | ⟨r, hr, -, hw⟩
  · exact .inl hw
  · cases hg.symm.trans (ungated hr)
  · rw [hw]
    rcases storeReg_of_not_gated s (ungated hr) v with hs | ⟨rfl, hv, hs⟩
    · exact .inl hs
    · exact .inr ⟨(offset_of_regAt hr).symm, hv, hs⟩

theorem writeWord_busy_frame {s : State} (hb : s.busy = true) (off : Nat) (v : Word) :
    ∃ (e : Bool) (c : BitVec 4), s.writeWord off v = { s with err := e, errCode := c } := by
  by_cases hoff : off ∈ gatedOffsets
  · exact ⟨_, _, writeWord_gated_busy hoff hb v⟩
  · rcases writeWord_not_gated s hoff v with hw | ⟨-, -, hw⟩
    · exact ⟨_, _, hw⟩
    · exact ⟨_, _, hw⟩

/-- Settles O34, by whether the offset is gated; the free reads are those of R58. -/
theorem busyRefusesGatedWrites : Obligations.BusyRefusesGatedWrites :=
  ⟨fun _ v hb _ hoff => writeWord_gated_busy hoff hb v, fun s _ v _ hoff => writeWord_not_gated s hoff v,
    fun _ off v hb => writeWord_busy_frame hb off v, fun s off => ⟨s.hostRead_err off, s.hostRead_errCode off⟩,
    fun s off hb hoff => readWord_of_readIsOpen ((readIsOpen_iff s off).2 ⟨hb, hoff⟩)⟩

end Sys2Proof.Proofs
end

section
/-! The checks of a window write (60_exceptions.md R209; 45_context_control.md R177). -/

namespace Sys2Proof.Proofs
open Sys2Proof Sys2Proof.Machine

/-- The indices that name no context word (45_context_control.md R175). -/
def reservedIndex (i : Byte) : Prop := (0x05 ≤ i.toNat ∧ i.toNat ≤ 0x0F) ∨ (0x2A ≤ i.toNat ∧ i.toNat ≤ 0x3F)

/-- The two writes whose value is out of its field's range (60_exceptions.md R209). -/
def valueOutOfRange (i : Byte) (v : Word) : Prop := i = 0x02 ∧ 2000 ≤ v.toNat ∨ i = 0x04 ∧ 18 ≤ v.toNat

theorem ctxWriteError_reserved {i : Byte} (h : reservedIndex i) (v : Word) : ctxWriteError i v = some .badIndex := by
  simp only [ctxWriteError, (ctxSlot_eq_reserved_iff i).2 h]

theorem ctxWriteError_outOfRange {i : Byte} {v : Word} (h : valueOutOfRange i v) :
    ctxWriteError i v = some .illegalValue := by
  rcases h with ⟨rfl, hv⟩ | ⟨rfl, hv⟩ <;> simpa [ctxWriteError, ctxSlot] using hv

theorem ctxWriteError_eq_none {i : Byte} {v : Word} (hr : ¬ reservedIndex i) (hv : ¬ valueOutOfRange i v) :
    ctxWriteError i v = none := by
  rcases ctxSlot_cases i with ⟨-, hs⟩ | ⟨-, hs⟩ | ⟨hi, hs⟩ | ⟨-, hs⟩ | ⟨hi, hs⟩ | ⟨k, -, hs⟩ | ⟨w, -, hs⟩ | ⟨w, -, hs⟩ |
    ⟨w, -, hs⟩ | ⟨hi, -⟩
  case inr.inr.inl =>
    have hlt : ¬ 2000 ≤ v.toNat := fun h => hv (.inl ⟨hi, h⟩)
    simp only [ctxWriteError, hs, hlt, if_false]
  case inr.inr.inr.inr.inl =>
    have hlt : ¬ 18 ≤ v.toNat := fun h => hv (.inr ⟨hi, h⟩)
    simp only [ctxWriteError, hs, hlt, if_false]
  case inr.inr.inr.inr.inr.inr.inr.inr.inr => exact absurd hi hr
  -- no other slot has a check
  all_goals simp only [ctxWriteError, hs]

theorem ctxWrite_of_refused (s : State) {i : Byte} {v : Word} {e : ErrorKind} (h : ctxWriteError i v = some e) :
    s.ctxWrite i v = s.raise e := by
  rw [State.ctxWrite, h]

theorem ctxStore_record (s : State) (i : Byte) (v : Word) :
    (s.ctxStore i v).err = s.err ∧ (s.ctxStore i v).errCode = s.errCode := by
  rw [ctxStore_frame]
  exact ⟨rfl, rfl⟩

theorem writeWord_ctxData {s : State} (hb : s.busy = false) (v : Word) : s.writeWord 0x64 v = s.ctxWrite s.ctxIndex v :=
  writeWord_offset (r := .ctxData) (fun _ => hb) v

theorem readWord_ctxData_reserved {s : State} (hb : s.busy = false) (h : reservedIndex s.ctxIndex) :
    s.readWord 0x64 = 0 := by
  have hread : s.readWord 0x64 = s.ctxRead s.ctxIndex := readWord_offset (r := .ctxData) (.inl hb)
  rw [hread, ctxRead_reserved s ((ctxSlot_eq_reserved_iff _).2 h)]

/-- Settles O43, check by check. -/
theorem windowWritesAreChecked : Obligations.WindowWritesAreChecked := by
  refine ⟨fun s v hb => ?_, fun s => ⟨s.hostRead_err 0x64, s.hostRead_errCode 0x64, readWord_ctxData_reserved⟩⟩
  rw [writeWord_ctxData hb]
  exact ⟨fun hr => ctxWrite_of_refused s (ctxWriteError_reserved hr v),
    fun hv => ctxWrite_of_refused s (ctxWriteError_outOfRange hv),
    fun hr hv => ⟨ctxWrite_of_stored s (ctxWriteError_eq_none hr hv), ctxStore_record s s.ctxIndex v⟩⟩

end Sys2Proof.Proofs
end

section
/-! A command from acceptance to completion (60_exceptions.md R206, R207), as a host brings it about and as the model places it. -/

namespace Sys2Proof.Proofs
open Sys2Proof Sys2Proof.Machine

/-! ### A placed command -/

theorem tableWord_toNat (w : Word) : tableWord 32 w.toNat = w := by
  rw [tableWord, Nat.mod_eq_of_lt w.isLt, BitVec.ofNat_toNat, BitVec.setWidth_eq]

theorem turn_giveEngineTurn (s : State) : s.giveEngineTurn.turn = some .engine := by
  unfold State.giveEngineTurn
  split
  · rename_i h
    exact h
  · rfl

theorem withFetchWord_isCompletionOf (s : State) (i : Instr) : (s.withFetchWord 32 (encode i).toNat).isCompletionOf i := by
  have hcmd : (s.withFetchWord 32 (encode i).toNat).cmd = encode i := tableWord_toNat _
  refine ⟨turn_giveEngineTurn _, rfl, ?_⟩
  rw [State.inFlight, hcmd, decode_encode]

/-- Settles O4: completion is the step's own case, and a placed word meets its conditions. -/
theorem stepCompletesTheDecodedCommand : Obligations.StepCompletesTheDecodedCommand :=
  ⟨fun _ _ h => step_of_isCompletionOf h, withFetchWord_isCompletionOf⟩

/-! ### A command written by a host -/

theorem turn_of_busy {s : State} (hs : s.sched = []) (hb : s.busy = true) : s.turn = some .engine := by
  simp [State.turn, hs, hb]

theorem turn_of_idle {s : State} {op : HostOp} {ops : List HostOp} (hs : s.sched = []) (hb : s.busy = false)
    (hh : s.host = op :: ops) : s.turn = some .host := by
  simp [State.turn, hs, hb, hh]

theorem endTurn_of_sched_nil {s : State} (hs : s.sched = []) : s.endTurn = s := by
  have htail : s.sched.tail = s.sched := by rw [hs, List.tail_nil]
  rw [State.endTurn, htail]

/-- Settles O5: the host's turn comes first because nothing is in flight, the engine's next because the command then is. -/
theorem writtenCommandIsAcceptedThenCompleted : Obligations.WrittenCommandIsAcceptedThenCompleted := by
  intro s i ops hb hv hs hh
  have ht : s.turn = some .host := turn_of_idle hs hb hh
  have haccept : s.writeWord Reg.cmd.offset (encode i) = s.start (encode i) := writeWord_cmd_of_ready hb hv
  obtain ⟨t, hdef⟩ : ∃ t, t = { s.start (encode i) with host := ops, resp := .done } := ⟨_, rfl⟩
  refine ⟨t, ?accepts, hdef, ?completes⟩
  case accepts =>
    rw [step_of_isWriteTo ⟨ht, by rw [hh, List.head?_cons]⟩, haccept, hdef]
    simp [State.endTurn, State.endAccess, hh, hs]
  case completes =>
    have hsched : t.sched = [] := by rw [hdef]; exact hs
    have hbusy : t.busy = true := by rw [hdef]; rfl
    have hflight : t.inFlight = .ok i := by rw [hdef]; exact decode_encode i
    rw [step_of_isCompletionOf ⟨turn_of_busy hsched hbusy, hbusy, hflight⟩, endTurn_of_sched_nil hsched]

end Sys2Proof.Proofs
end

section
/-! Progress: a step of a state with the invariant is never refused, and a command in flight completes within the schedule
(60_exceptions.md R206, R207, R214; 70_reset_and_hazards.md R250). -/

namespace Sys2Proof.Proofs
open Sys2Proof Sys2Proof.Machine

/-! ### Refusals -/

theorem busAccess_ne_refused (s : State) (addr : Nat) (width : AccessWidth) (act : Nat → State) (r : Refusal) :
    s.busAccess addr width act ≠ .refused r := by
  rcases busAccess_cases s addr width act with ⟨off, -, -, -, -, h⟩ | ⟨off, -, -, -, h⟩ | ⟨-, h⟩ <;> rw [h] <;> nofun

theorem hostTurn_ne_refused (s : State) (r : Refusal) : hostTurn s ≠ .refused r := by
  unfold hostTurn
  split
  · nofun
  · rename_i op _ _
    cases op with
    | read addr width => rw [hostMove_read]; exact busAccess_ne_refused _ _ _ _ r
    | write addr width v => rw [hostMove_write]; exact busAccess_ne_refused _ _ _ _ r
    | pollBusy => nofun

theorem engineTurn_ne_refused {s : State} (h : s.Inv) (r : Refusal) : engineTurn s ≠ .refused r := by
  cases hb : s.busy with
  | false => simp [engineTurn, hb]
  | true =>
    obtain ⟨i, hi, -⟩ := h.legal hb
    obtain ⟨u, hu⟩ := exec_completes i s
    simp [engineTurn, hb, complete, hi, hu]

theorem step_ne_refused {s : State} (h : s.Inv) (r : Refusal) : step s ≠ .refused r := by
  unfold step
  split
  · nofun
  · have hend : s.endTurn.Inv := SameBlock.inv ⟨_, _, _, _, rfl⟩ h
    exact engineTurn_ne_refused hend r
  · exact hostTurn_ne_refused s.endTurn r
  · nofun

/-- Settles O50, by the three outcomes of a step. -/
theorem invariantStepIsNeverRefused : Obligations.InvariantStepIsNeverRefused := by
  intro s hs
  cases h : step s with
  | next t => exact .inl ⟨t, rfl⟩
  | fault r =>
    obtain ⟨ht, -⟩ := hostMove_of_step_fault h
    cases r with
    | busError off width => exact .inr ⟨off, width, rfl, ht⟩
  | refused r => exact absurd h (step_ne_refused hs r)

/-! ### A step uses up one entry of the schedule -/

theorem exec_sched {i : Instr} {s u : State} (h : exec i s = .next u) : u.sched = s.sched := by
  rcases exec_cases h with ⟨-, rfl⟩ | ⟨-, rfl⟩ | ⟨t, -, rfl⟩ | ⟨-, d0, d1, rfl⟩ | ⟨-, d0, d1, rfl⟩ | ⟨-, rfl⟩ <;> rfl

theorem storeReg_sched (s : State) (r : Reg) (v : Word) : (s.storeReg r v).sched = s.sched := by
  cases r with
  | status =>
    show (if v.getLsbD 1 then s.clearError else s).sched = s.sched
    split <;> rfl
  | cmd =>
    show (s.accept v).sched = s.sched
    rcases accept_cases s v with ⟨-, h⟩ | ⟨i, -, -, -, h⟩ | ⟨i, -, -, h⟩ <;> rw [h] <;> rfl
  | ctxData =>
    show (s.ctxWrite s.ctxIndex v).sched = s.sched
    rcases ctxWrite_cases s s.ctxIndex v with ⟨e, -, h⟩ | ⟨-, h⟩ <;> rw [h]
    · rfl
    · rw [ctxStore_frame]
      rfl
  | _ => rfl

theorem writeWord_sched (s : State) (off : Nat) (v : Word) : (s.writeWord off v).sched = s.sched := by
  rcases writeWord_cases s off v with ⟨-, h⟩ | ⟨r, -, -, -, h⟩ | ⟨r, -, -, h⟩ <;> rw [h]
  · rfl
  · exact storeReg_sched s r v

theorem sched_of_turn_none {s : State} (h : s.turn = none) : s.sched = [] := by
  cases hs : s.sched with
  | nil => rfl
  | cons a rest => simp [State.turn, hs] at h

theorem step_sched {s t : State} (h : step s = .next t) : t.sched = s.sched.tail := by
  rcases step_cases h with ⟨ht, rfl⟩ | ⟨-, -, rfl⟩ | ⟨i, -, hx⟩ | ⟨-, -, rfl⟩ | ⟨-, off, -, -, -, rfl⟩ |
    ⟨-, off, -, -, v, -, rfl⟩ | ⟨-, -, rfl⟩ | ⟨-, -, rfl⟩ | ⟨n, -, rfl⟩
  case inl => rw [sched_of_turn_none ht, List.tail_nil]
  case inr.inr.inl => exact exec_sched hx
  case inr.inr.inr.inr.inr.inl => exact writeWord_sched s.endTurn.endAccess off v
  case inr.inr.inr.inr.inr.inr.inr.inl => split <;> rfl
  -- every other step leaves the schedule as the turn left it
  all_goals rfl

/-! ### The run of a command in flight -/

theorem run_succ_of_next {s t : State} (h : step s = .next t) (n : Nat) :
    Sys2Proof.core.run (n + 1) s = Sys2Proof.core.run n t := by
  have hcore : Sys2Proof.core.step s = .next t := h
  simp only [Host.Core.run, hcore]

theorem run_one_of_fault {s : State} {r : Fault} (h : step s = .fault r) : Sys2Proof.core.run 1 s = .fault r := by
  have hcore : Sys2Proof.core.step s = .fault r := h
  simp only [Host.Core.run, hcore]

/-- The run of `s` for `n` steps ends with no command in flight, or at the bus error of a host's own access. -/
def EndsIdle (n : Nat) (s : State) : Prop :=
  (∃ t : State, Sys2Proof.core.run n s = .next t ∧ t.busy = false) ∨
    ∃ (off : Nat) (width : AccessWidth), Sys2Proof.core.run n s = .fault (.busError off width)

theorem EndsIdle.of_next {s t : State} (h : step s = .next t) {n : Nat} (ht : EndsIdle n t) : EndsIdle (n + 1) s := by
  unfold EndsIdle at ht ⊢
  rwa [run_succ_of_next h]

theorem endsIdle_zero {s : State} (hb : s.busy = false) : EndsIdle 0 s := .inl ⟨s, rfl, hb⟩

/-- The engine moves once the schedule is used up. -/
theorem step_completes_of_sched_nil {s : State} (hs : s.Inv) (hb : s.busy = true) (hn : s.sched = []) :
    ∃ t, step s = .next t ∧ t.busy = false := by
  obtain ⟨i, hi, -⟩ := hs.legal hb
  obtain ⟨t, ht⟩ := exec_completes i s.endTurn
  exact ⟨t, by rw [step_of_isCompletionOf ⟨turn_of_busy hn hb, hb, hi⟩, ht], exec_busy ht⟩

theorem exists_endsIdle {turns : List Agent} : ∀ {s : State}, s.Inv → s.busy = true → s.sched = turns →
    ∃ n ≤ turns.length + 1, EndsIdle n s := by
  induction turns with
  | nil =>
    intro s hs hb hn
    obtain ⟨t, ht, hidle⟩ := step_completes_of_sched_nil hs hb hn
    exact ⟨1, Nat.le_refl 1, .of_next ht (endsIdle_zero hidle)⟩
  | cons a rest ih =>
    intro s hs hb hn
    rcases invariantStepIsNeverRefused s hs with ⟨t, ht⟩ | ⟨off, width, hfault, -⟩
    · cases hidle : t.busy with
      | false => exact ⟨1, Nat.le_add_left 1 _, .of_next ht (endsIdle_zero hidle)⟩
      | true =>
        have hrest : t.sched = rest := by rw [step_sched ht, hn, List.tail_cons]
        obtain ⟨n, hle, hends⟩ := ih (stepKeepsTheInvariant s t hs ht) hidle hrest
        exact ⟨n + 1, Nat.succ_le_succ hle, .of_next ht hends⟩
    · exact ⟨1, Nat.le_add_left 1 _, .inr ⟨off, width, run_one_of_fault hfault⟩⟩

/-- Settles O59, by induction on the schedule: each step uses up one entry, keeps the invariant, and past the last one the engine
completes the command. -/
theorem acceptedCommandCompletes : Obligations.AcceptedCommandCompletes :=
  fun _ hs hb => exists_endsIdle hs hb rfl

end Sys2Proof.Proofs
end
